-- ==== Sys2Proof/Word.lean ====
section
/-! DEFINITION. The words of the block, each an unsigned value of the width `00_scope.md` R6 gives it. -/

namespace Sys2Proof

/-- One byte of the output buffer (R10: bit 7 is the most significant). -/
abbrev Byte := BitVec 8

/-- A 64-bit word: `prev_timestamp`, `now_ms`, one random word (R6). -/
abbrev Word64 := BitVec 64

/-- The 18-bit monotonicity counter (R6, R22). -/
abbrev Counter := BitVec 18

/-- The result on the bus `uuid[127:0]`; `u[0]` is its most significant byte (R11). -/
abbrev Uuid := BitVec 128

/-- The text on the bus `str[255:0]`; character 0 is its most significant byte (R132). -/
abbrev Text := BitVec 256

end Sys2Proof
end

