-- ==== Sys2Proof/Syntax.lean ====
section
/-! DEFINITION. The commands of the block: every row of spec/opcode_table.json, and nothing else (`30_encoding.md` R75). -/

namespace Sys2Proof

/-- The two commands. Neither carries an operand (R61). -/
inductive Instr where
  /-- GEN: generate one value and return its 16 bytes (R90). -/
  | gen
  /-- GENS: generate one value and return it as 32 hexadecimal characters too (R130). -/
  | gens
  deriving DecidableEq, Repr

/-- A command word as something outside the block may hold it: how many bits it has and what they are.
Only a word of one bit is in the block's one format `CMD` (R60). -/
structure CommandWord where
  nbits : Nat
  value : Nat
  deriving DecidableEq, Repr

end Sys2Proof
end

