-- ==== Sys2Proof/WellFormed.lean ====
section
/-! DEFINITION. Which commands and command words are well formed (`30_encoding.md` R60, R61, R76). -/

namespace Sys2Proof

/-- Every command is well formed: it has no operand that could be out of range, and "no command is illegal,
reserved, a hint or custom" (R76). -/
def Instr.wellFormed : Instr → Bool
  | .gen => true
  | .gens => true

/-- The word has the width of format `CMD` (R60: "There is no other instruction length"). -/
def CommandWord.hasCommandWidth (c : CommandWord) : Bool := c.nbits == 1

/-- The word's value fits in its own bits. -/
def CommandWord.fits (c : CommandWord) : Bool := decide (c.value < 2 ^ c.nbits)

/-- A word of format `CMD`: one bit wide, with a value of that bit (R61). -/
def CommandWord.wellFormed (c : CommandWord) : Bool := c.hasCommandWidth && c.fits

end Sys2Proof
end

