-- ==== Sys2Proof/Decode.lean ====
section
/-! DEFINITION. Decoding and encoding of command words (`30_encoding.md` R60, R61, R75, R76). -/

namespace Sys2Proof

/-- What the port's command word selects: `cmd_op = 0` is GEN, `cmd_op = 1` is GENS (R61, R75). Total: both values
of the one bit are defined (R76). -/
def decode (cmdOp : BitVec 1) : Instr :=
  if cmdOp = 0#1 then .gen else .gens

/-- The command word of a command (R61). -/
def encode : Instr → BitVec 1
  | .gen => 0#1
  | .gens => 1#1

/-- Why a command word held outside the block is no command of it. -/
inductive DecodeReject where
  /-- There is no byte, so there is no bit `cmd_op`. -/
  | empty
  /-- A bit other than bit 0 is set: format `CMD` has no other bit (R60, R61). -/
  | bitsOutsideCmdOp (byte : Byte)
  deriving DecidableEq, Repr

/-- Reads one command from a list of bytes and gives it back with the bytes that follow. The port itself carries one
bit; a byte stands for it with the bit in bit 0 and zeros above (DESIGN CHOICE, log entry 3: D10 leaves the carriage to
the platform). -/
def decodeBytes : List Byte → Except DecodeReject (Instr × List Byte)
  | [] => .error .empty
  | b :: rest => if b &&& 0xFE#8 = 0#8 then .ok (decode (b.extractLsb' 0 1), rest) else .error (.bitsOutsideCmdOp b)

/-- The command in the byte form `decodeBytes` reads. -/
def encodeBytes (i : Instr) : List Byte := [(encode i).setWidth 8]

/-- The low `n` bytes of `w`, the lowest first. -/
def bytesOfNat : Nat → Nat → List Byte
  | 0, _ => []
  | n + 1, w => BitVec.ofNat 8 w :: bytesOfNat n (w / 256)

/-- The command the decoder reads from a table row's bits `w` (bit 0 is `cmd_op`); none where it refuses. A word with a
bit set above its own `nbits`, or in a later byte, is no command word. -/
def decodeTableWord (nbits w : Nat) : Option Instr :=
  if 2 ^ nbits ≤ w then none
  else
    match decodeBytes (bytesOfNat ((nbits + 7) / 8) w) with
    | .ok (i, rest) => if rest.all (· == 0#8) then some i else none
    | .error _ => none

end Sys2Proof
end

