-- ==== Sys2Proof/Config.lean ====
section
/-! DEFINITION. The constants `00_scope.md` R6 names, and the free values: opaque constants with no body, so that no
proof can know what they are. The block itself has no tunable (R6). -/

namespace Sys2Proof

/-- `CTR_MAX`: the counter's maximum value (R6, R22). -/
def Config.ctrMax : Counter := 0x3FFFF#18

/-- `SEED_MAX`: the largest seed a fresh call can store (R6, R97). -/
def Config.seedMax : Counter := 0x1FFFF#18

/-- `GUARD_MASK`: the guard bit, of byte 6 (R6). -/
def Config.guardMask : Byte := 0x08#8

/-- `VER`, already in the high nibble of byte 6 (R6, R102). -/
def Config.verBits : Byte := 0x70#8

/-- `VAR`, already in the top two bits of byte 8 (R6, R103). -/
def Config.varBits : Byte := 0x80#8

/-- How many bytes the output buffer has (R40). -/
def Config.outBytes : Nat := 16

/-- FREE VALUE (log entry 4): what a byte of the output buffer holds at the start of a call; "the call starts with its
content undefined" (R40, U15). -/
opaque Config.outUndefined : Nat → Byte

/-- FREE VALUE (log entry 2): the clock answer of a command that `State.withFetchWord` places where none is there. Any
64-bit answer is a good answer (R162). -/
opaque Config.freeClock : Word64

/-- FREE VALUE (log entry 2): the random words, by draw, of a command that `State.withFetchWord` places. -/
opaque Config.freeRng : Nat → Word64

end Sys2Proof
end

