-- ==== Sys2Proof/Machine/State.lean ====
section
/-! DEFINITION. The state of one instance (`10_state.md`), what its ports carry (`30_encoding.md` R62), the state that
exists inside one call (`20_memory.md` R40), and the reasons a step could stop. -/

namespace Sys2Proof.Machine

/-- The output buffer `OUT` inside one call (R40), the only memory of the block (R13): the bytes written so far, as
address and byte, the addresses strictly rising. An address that is not listed has not been written, and its content is
undefined (`Config.outUndefined`). -/
abbrev Memory := List Host.Cell

/-- The control state: "States: `Idle`" and no other (R23). -/
inductive Control where
  | idle
  deriving DecidableEq, Repr

/-- What stands on the input ports of the instance during one transaction (R62): at most one command or reset request,
with the answers its collaborators give to that command. The answers belong to this command alone, so that no random
stream is threaded from one command to the next (D8). -/
structure PortInputs where
  /-- `rst`: a reset is requested (R180). -/
  rst : Bool
  /-- `cmd_valid`: a command is issued (R62). -/
  cmdValid : Bool
  /-- `cmd_op`: the command word (R61). -/
  cmdOp : BitVec 1
  /-- `now_ms`: the answer to `ClockSample()` (R27); none where the clock never answers (R162). -/
  nowMs : Option Word64
  /-- `rng_word`: the answers to the command's `RngDraw()`s in the order drawn, `w0` first (R28, R52); a list too short
  for the command is a random source that never answers (R162). -/
  rngWords : List Word64
  deriving DecidableEq, Repr

/-- What the output ports carry with the `rsp_valid` of a finished command (R29, R62). -/
structure Response where
  /-- `uuid[127:0]`, valid with `rsp_valid`. -/
  uuid : Uuid
  /-- `str[255:0]`, valid with the `rsp_valid` of a GENS only. -/
  str : Option Text
  /-- How many pulses the command put on `rng_take`, one per `RngDraw()`. -/
  rngTake : Nat
  deriving DecidableEq, Repr

/-- One instance. The spec's architectural state is the first two fields (R20) and the one control state (R23); the
other two are its ports (R62). -/
structure State where
  /-- `prev_timestamp`, the logical clock in milliseconds (R21). -/
  prevTimestamp : Word64
  /-- `sequence_counter` (R22); bit 17 is the guard bit. -/
  sequenceCounter : Counter
  /-- The control state (R23). -/
  control : Control
  /-- What the requester and the collaborators put on the input ports, one entry per transaction, the next one first
  (R48: commands take effect one at a time, in issue order). -/
  inputs : List PortInputs
  /-- The response of the command that has just finished; none while `rsp_valid` is 0 (R62, R181). -/
  response : Option Response
  deriving DecidableEq, Repr

/-- What the entry at the front of `inputs` asks of the instance (R62). -/
inductive Request where
  /-- No command and no reset: `cmd_valid` is 0, or the requester has sent nothing more. -/
  | nothing
  /-- A reset, whether or not a command stands beside it (R180). -/
  | reset
  /-- A command word. -/
  | command (cmdOp : BitVec 1)
  deriving DecidableEq, Repr

/-- What exists inside one call (R13, R40): the registers as the call has written them, the buffer under construction,
the random answers not yet drawn, and how many have been drawn. -/
structure Call where
  prevTimestamp : Word64
  sequenceCounter : Counter
  out : Memory
  rngLeft : List Word64
  rngTaken : Nat
  deriving DecidableEq, Repr

/-- There is no fault: "A model's step function for this block has one outcome, the next state with its result; it has
no fault outcome" (R160). -/
inductive Fault where
  deriving DecidableEq, Repr

/-- Why a command could be refused. -/
inductive Refusal where
  /-- An arm of `exec` that has no meaning yet; no arm raises it. Safe: the model stops. -/
  | notModelled (mnemonic : String)
  deriving DecidableEq, Repr

/-- The instance right after reset (R180): both registers 0, `Idle`, no response valid (R181). Nothing has been
requested yet (DESIGN CHOICE, log entry 1). -/
def State.reset : State where
  prevTimestamp := 0
  sequenceCounter := 0
  control := .idle
  inputs := []
  response := none

end Sys2Proof.Machine
end

