-- ==== Sys2Proof/Machine/Flags.lean ====
section
/-! DEFINITION. The two conditions of a call. The block has no flag: both are values inside one call, neither stored nor
output (`10_state.md` R24). -/

namespace Sys2Proof.Machine

/-- The timestamp-counter comparator: `now_ms >u prev_timestamp`, unsigned, 64 bits (R92). -/
def fresh (now prev : Word64) : Bool := prev.ult now

/-- The counter's increment, formed in 19 bits (R98, D4). -/
def incremented (c : Counter) : BitVec 19 := c.setWidth 19 + 1#19

/-- The rollover decision on the 19-bit sum (R98). -/
def rollsOver (sum : BitVec 19) : Bool := (Config.ctrMax.setWidth 19).ult sum

/-- How many random words a call draws: two if fresh, one if stalled (R95, D8). -/
def wordsNeeded (now prev : Word64) : Nat := if fresh now prev then 2 else 1

end Sys2Proof.Machine
end

