-- ==== Sys2Proof/Machine/Operands.lean ====
section
/-! DEFINITION. The fields and forms of the block's operands and results: byte lanes of a random word, the counter's
scatter and gather, the timestamp's split, reading a value back (`30_encoding.md` R63 to R74), and the text form
(`41_string_form.md` R131, R132). -/

namespace Sys2Proof.Machine

/-- Byte `k` of a random word, byte 0 the least significant (R42, R70). -/
def laneByte (w : Word64) (k : Nat) : Byte := ((w >>> (8 * k)) &&& 0xFF#64).setWidth 8

/-- Byte `i` of a timestamp on its way to `u[i]`, most significant first (R69, R101). -/
def timestampByte (t : Word64) (i : Nat) : Byte := ((t >>> (40 - 8 * i)) &&& 0xFF#64).setWidth 8

/-- `C[17:14]`, for `u[6]` (R67, R100). -/
def counterHigh (c : Counter) : Byte := (c >>> 14).setWidth 8

/-- `C[13:6]`, for `u[7]` (R67, R100). -/
def counterMid (c : Counter) : Byte := ((c >>> 6) &&& 0xFF#18).setWidth 8

/-- `C[5:0]`, for `u[8]` (R67, R100). -/
def counterLow (c : Counter) : Byte := (c &&& 0x3F#18).setWidth 8

/-- The 18 bits of the counter field, read back out of bytes 6, 7 and 8 (R68). -/
def gatherCounter (b6 b7 b8 : Byte) : Counter :=
  ((b6 &&& 0x0F#8).setWidth 18 <<< 14) ||| (b7.setWidth 18 <<< 6) ||| (b8 &&& 0x3F#8).setWidth 18

/-- Byte 6 with the guard bit cleared (R96). -/
def clearGuard (b6 : Byte) : Byte := b6 &&& ~~~Config.guardMask

/-- Byte 6 with the version in its high nibble (R102). -/
def withVersion (b6 : Byte) : Byte := (b6 &&& 0x0F#8) ||| Config.verBits

/-- Byte 8 with the variant in its top two bits (R103). -/
def withVariant (b8 : Byte) : Byte := (b8 &&& 0x3F#8) ||| Config.varBits

/-- `u[i]` of a value, for `i` up to 15 (R11). -/
def byteOf (u : Uuid) (i : Nat) : Byte := u.extractLsb' (120 - 8 * i) 8

/-- `TsOf(U) = uuid[127:80]` (R74). -/
def tsOf (u : Uuid) : BitVec 48 := u.extractLsb' 80 48

/-- `VerOf(U) = uuid[79:76]` (R74). -/
def verOf (u : Uuid) : BitVec 4 := u.extractLsb' 76 4

/-- `CtrOf(U) = uuid[75:64] || uuid[61:56]` (R74). -/
def ctrOf (u : Uuid) : Counter := (u.extractLsb' 64 12 ++ u.extractLsb' 56 6).cast (by rfl)

/-- `VarOf(U) = uuid[63:62]` (R74). -/
def varOf (u : Uuid) : BitVec 2 := u.extractLsb' 62 2

/-- `TailOf(U) = uuid[55:0]` (R74). -/
def tailOf (u : Uuid) : BitVec 56 := u.extractLsb' 0 56

/-- `KeyOf(U) = uuid[127:56]` (R74). -/
def keyOf (u : Uuid) : BitVec 72 := u.extractLsb' 56 72

/-- The character for a nibble: `0` to `9`, then `a` to `f` (R131). -/
def hexDigit (n : BitVec 4) : Char :=
  if n.toNat < 10 then Char.ofNat ('0'.toNat + n.toNat) else Char.ofNat ('a'.toNat + (n.toNat - 10))

/-- The two characters of a byte, high nibble first (R131). -/
def hexByte (b : Byte) : List Char := [hexDigit (b.extractLsb' 4 4), hexDigit (b.extractLsb' 0 4)]

/-- `Hex32(U)`: the 32 characters of the 16 bytes, `u[0]` first (R131). -/
def hex32 (u : Uuid) : List Char := (List.range 16).flatMap fun i => hexByte (byteOf u i)

/-- The 8-bit ASCII code of a character of the text (R132). -/
def charCode (c : Char) : Byte := BitVec.ofNat 8 c.toNat

/-- The text on `str[255:0]`: character 0 in the top byte (R132). -/
def strPort (cs : List Char) : Text := cs.foldl (fun acc c => (acc <<< 8) ||| (charCode c).setWidth 256) 0

/-- Character `j` of the port, as its code: `str[255 - 8*j : 248 - 8*j]` (R132). -/
def strChar (t : Text) (j : Nat) : Byte := t.extractLsb' (248 - 8 * j) 8

end Sys2Proof.Machine
end

