-- ==== Sys2Proof/Machine/Ops.lean ====
section
/-! DEFINITION. The named operations over the output buffer, the registers and the ports. There is no operation that
takes an exception or returns from one: the block has neither (`60_exceptions.md` R160, R165). -/

namespace Sys2Proof.Machine

/-! ### The output buffer (R40) -/

/-- The canonical form of the buffer: addresses strictly rising, from `low` on, each one of the 16. -/
def Memory.wfFrom (low : Nat) : Memory → Bool
  | [] => true
  | (a, _) :: rest => decide (low ≤ a) && decide (a < Config.outBytes) && Memory.wfFrom (a + 1) rest

/-- The canonical form of the buffer. -/
def Memory.wf (m : Memory) : Bool := Memory.wfFrom 0 m

/-- `MemRead(a, 1)` as an Option: none where nothing has been written yet (R13, R40). -/
def Memory.written : Memory → Nat → Option Byte
  | [], _ => none
  | (b, v) :: rest, a => if a = b then some v else Memory.written rest a

/-- `MemRead(a, 1)`: a byte not yet written reads as a free value (R13, R40). -/
def Memory.read (m : Memory) (a : Nat) : Byte := (Memory.written m a).getD (Config.outUndefined a)

/-- `MemWrite(a, 1, v)` (R13). -/
def Memory.write : Memory → Nat → Byte → Memory
  | [], a, v => [(a, v)]
  | (b, x) :: rest, a, v =>
    if a < b then (a, v) :: (b, x) :: rest
    else if a = b then (a, v) :: rest
    else (b, x) :: Memory.write rest a v

/-- `u[0] || u[1] || ... || u[15]` on `uuid[127:0]` (R104, R11). -/
def Memory.uuid (m : Memory) : Uuid :=
  (m.read 0 ++ m.read 1 ++ m.read 2 ++ m.read 3 ++ m.read 4 ++ m.read 5 ++ m.read 6 ++ m.read 7 ++
  m.read 8 ++ m.read 9 ++ m.read 10 ++ m.read 11 ++ m.read 12 ++ m.read 13 ++ m.read 14 ++ m.read 15).cast (by rfl)

/-! ### Inside a call -/

/-- `u[a] <- v` (R13). -/
def Call.put (c : Call) (a : Nat) (v : Byte) : Call := { c with out := c.out.write a v }

/-- `u[a]` (R13). -/
def Call.get (c : Call) (a : Nat) : Byte := c.out.read a

/-- `RngDraw()` (R13, R28): the next answer of the random source; none if it never answers (R162). -/
def Call.rngDraw (c : Call) : Option (Word64 × Call) :=
  match c.rngLeft with
  | [] => none
  | w :: rest => some (w, { c with rngLeft := rest, rngTaken := c.rngTaken + 1 })

/-- The loop of `FillRandom` from byte `k` on, `n` bytes still to write, `w` the word drawn last (R94). -/
def fillFrom (base : Nat) : Nat → Nat → Word64 → Call → Option Call
  | _, 0, _, c => some c
  | k, n + 1, w, c =>
    if k % 8 = 0 then
      match c.rngDraw with
      | none => none
      | some (w', c') => fillFrom base (k + 1) n w' (c'.put (base + k) (laneByte w' (k % 8)))
    else fillFrom base (k + 1) n w (c.put (base + k) (laneByte w (k % 8)))

/-- `FillRandom(base, N)` (R94). The word `0` that the loop starts with is never used: byte 0 draws its own. -/
def fillRandom (base n : Nat) (c : Call) : Option Call := fillFrom base 0 n 0#64 c

/-! ### The collaborators' answers (R27, R28) -/

/-- `ClockSample()`: the one clock answer of the command at the front; none if the clock never answers (R91, R162). -/
def State.clockSample (s : State) : Option Word64 := s.inputs.head?.bind (·.nowMs)

/-- The random source's answers to the command at the front, `w0` first (R52). -/
def State.rngAnswers (s : State) : List Word64 := (s.inputs.head?.map (·.rngWords)).getD []

/-- Whether the collaborators answer all that a command in this state asks of them (R95, R162). -/
def State.answered (s : State) : Bool :=
  match s.clockSample with
  | none => false
  | some now => decide (wordsNeeded now s.prevTimestamp ≤ s.rngAnswers.length)

/-! ### Transactions (R62) -/

/-- What the front of the inputs asks: a reset wins over a command beside it (R164, R180), and a command is issued when
`cmd_valid` is 1 and the instance is idle (R62). -/
def State.request (s : State) : Request :=
  match s.inputs with
  | [] => .nothing
  | p :: _ => if p.rst then .reset else if p.cmdValid && s.control = .idle then .command p.cmdOp else .nothing

/-- A transaction with no command and no reset "changes nothing" (R62): it is used up, and `rsp_valid`, one pulse per
finished command, is 0 after it. -/
def State.idleStep (s : State) : State := { s with inputs := s.inputs.tail, response := none }

/-- The reset event (R180): both registers 0, `Idle`, no response; a command beside it is not executed. -/
def State.resetStep (s : State) : State :=
  { prevTimestamp := 0, sequenceCounter := 0, control := .idle, inputs := s.inputs.tail, response := none }

/-- A command whose collaborators never answer: "the command has no step and never ends (the instance is stuck)"
(R162). The registers and the pending request stay; no response is valid. -/
def State.waitStep (s : State) : State := { s with response := none }

/-- The call at its start: the registers as they stand, the buffer unwritten (R40), no word drawn. -/
def Call.start (s : State) : Call :=
  { prevTimestamp := s.prevTimestamp, sequenceCounter := s.sequenceCounter, out := [],
    rngLeft := s.rngAnswers, rngTaken := 0 }

/-- `Return(v)` (R104): the registers and the whole response at once (R44), `Idle` again, and the request used up. -/
def State.finish (s : State) (c : Call) (textOf : Uuid → Option Text) : State :=
  { prevTimestamp := c.prevTimestamp
    sequenceCounter := c.sequenceCounter
    control := .idle
    inputs := s.inputs.tail
    response := some { uuid := c.out.uuid, str := textOf c.out.uuid, rngTake := c.rngTaken } }

/-- The end of a command: its response where the call ran to its end, the wait where a collaborator does not answer. -/
def State.complete (s : State) (call : Option Call) (textOf : Uuid → Option Text) : State :=
  match call with
  | none => s.waitStep
  | some c => s.finish c textOf

end Sys2Proof.Machine
end

