-- ==== Sys2Proof/Machine/Generate.lean ====
section
/-! DEFINITION. The generate family: the units of GEN (`40_generate.md` R91 to R104) and the meanings of GEN and GENS
(`40_generate.md` R90, `41_string_form.md` R130). -/

namespace Sys2Proof.Machine

/-- `FreshUnit(now_ms)` (R96): the emitted timestamp and the call after it; none where a random word never comes. -/
def freshUnit (now : Word64) (c : Call) : Option (Word64 × Call) :=
  (fillRandom 6 10 c).map fun c =>
    let c := c.put 6 (clearGuard (c.get 6))
    (now, { c with sequenceCounter := gatherCounter (c.get 6) (c.get 7) (c.get 8), prevTimestamp := now })

/-- The first half of `StalledUnit()` with the rollover/borrow unit (R98, R99): the counter is incremented; on rollover
it becomes 0 and `prev_timestamp` grows by one modulo `2^64`. -/
def countUp (c : Call) : Call :=
  if rollsOver (incremented c.sequenceCounter) then
    { c with sequenceCounter := 0, prevTimestamp := c.prevTimestamp + 1 }
  else { c with sequenceCounter := (incremented c.sequenceCounter).setWidth 18 }

/-- `FillCounter()` (R100): eight random bytes to `u[8..15]`, then the counter over bytes 6, 7 and 8. -/
def fillCounter (c : Call) : Option Call :=
  (fillRandom 8 8 c).map fun c =>
    ((c.put 6 (counterHigh c.sequenceCounter)).put 7 (counterMid c.sequenceCounter)).put 8
      (counterLow c.sequenceCounter)

/-- `StalledUnit()` (R98, R100): the emitted timestamp is `prev_timestamp` after the update. -/
def stalledUnit (c : Call) : Option (Word64 × Call) :=
  (fillCounter (countUp c)).map fun c' => ((countUp c).prevTimestamp, c')

/-- `PackTimestamp(T)` (R101): bits 47 to 0 into bytes 0 to 5, most significant byte first. -/
def packTimestamp (t : Word64) (c : Call) : Call :=
  (List.range 6).foldl (fun c i => c.put i (timestampByte t i)) c

/-- `PackVersion()` (R102). -/
def packVersion (c : Call) : Call := c.put 6 (withVersion (c.get 6))

/-- `PackVariant()` (R103). -/
def packVariant (c : Call) : Call := c.put 8 (withVariant (c.get 8))

/-- Steps 3 to 5 of GEN, in their order (R90, R51). -/
def pack (t : Word64) (c : Call) : Call := packVariant (packVersion (packTimestamp t c))

/-- Steps 2 to 5 of GEN on the clock sample (R90): the comparator chooses the unit, the packer lays the value out. -/
def generate (now : Word64) (c : Call) : Option Call :=
  (if fresh now c.prevTimestamp then freshUnit now c else stalledUnit c).map fun r => pack r.1 r.2

/-- One whole GEN up to its return (R90): the clock is sampled once, first (R91, R52). -/
def runGenerate (s : State) : Option Call := s.clockSample.bind fun now => generate now (Call.start s)

/-- GEN (R90). -/
def execGen (s : State) : Host.Outcome State Fault Refusal :=
  .next (s.complete (runGenerate s) fun _ => none)

/-- GENS (R130): exactly one GEN, and the text of its result. -/
def execGens (s : State) : Host.Outcome State Fault Refusal :=
  .next (s.complete (runGenerate s) fun u => some (strPort (hex32 u)))

end Sys2Proof.Machine
end

