-- ==== Sys2Proof/Machine/Dispatch.lean ====
section
/-! DEFINITION. One arm per command. -/

namespace Sys2Proof.Machine

def exec (i : Instr) (s : State) : Host.Outcome State Fault Refusal :=
  match i with
  | .gen => Sys2Proof.Machine.execGen s
  | .gens => Sys2Proof.Machine.execGens s

end Sys2Proof.Machine
end

