-- ==== Sys2Proof/Machine/Fetch.lean ====
section
/-! DEFINITION. Placing a command at the front of the inputs (log entries 1 and 2). -/

namespace Sys2Proof.Machine

/-- A transaction that asks for nothing and whose collaborators answer with free values. -/
def PortInputs.free : PortInputs where
  rst := false
  cmdValid := false
  cmdOp := 0
  nowMs := some Config.freeClock
  rngWords := [Config.freeRng 0, Config.freeRng 1]

/-- The transaction with the command word `op` on its port and no reset beside it. The collaborators' answers stay as
they are; free values are supplied for the ones a command could still ask for, since a command without them never
ends (R162). -/
def PortInputs.withCommand (p : PortInputs) (op : BitVec 1) : PortInputs where
  rst := false
  cmdValid := true
  cmdOp := op
  nowMs := some (p.nowMs.getD Config.freeClock)
  rngWords :=
    match p.rngWords with
    | [] => [Config.freeRng 0, Config.freeRng 1]
    | [w0] => [w0, Config.freeRng 1]
    | ws => ws

/-- The state with a command word at the front of its inputs. -/
def State.withCommand (s : State) (op : BitVec 1) : State :=
  { s with inputs := (s.inputs.headD PortInputs.free).withCommand op :: s.inputs.tail }

end Sys2Proof.Machine
end

