-- ==== Sys2Proof/Machine/Step.lean ====
section
/-! DEFINITION. One step: one transaction of the instance (`00_scope.md` R9, `30_encoding.md` R62). -/

namespace Sys2Proof.Machine

/-- One atomic step (R9, R44): what the front of the inputs asks for is done. There is no program counter; the "advance
of the pc" is the consumption of the next command (R23). -/
def step (s : State) : Host.Outcome State Fault Refusal :=
  match s.request with
  | .nothing => .next s.idleStep
  | .reset => .next s.resetStep
  | .command op => exec (decode op) s

/-- The state with the command word `w` placed where `step` takes its next request. A `w` that is no command word (R60)
cannot stand on the one-bit port, and leaves the state as it is. -/
def State.withFetchWord (s : State) (nbits w : Nat) : State :=
  if (decodeTableWord nbits w).isSome then s.withCommand (BitVec.ofNat 1 w) else s

/-- The state after one step; the step always answers a next state (R106, R160). -/
def advance (s : State) : State :=
  match step s with
  | .next t => t
  | .fault _ => s
  | .refused _ => s

/-- The state after `n` steps. -/
def after : Nat → State → State
  | 0, s => s
  | n + 1, s => advance (after n s)

end Sys2Proof.Machine
end

