-- ==== Sys2Proof/Machine/System.lean ====
section
/-! DEFINITION. A system of `N_INST` independent instances (`00_scope.md` R8, `60_exceptions.md` R169, D18). The host's
machine (`core`) is one instance; this file says what several of them are. -/

namespace Sys2Proof.Machine

/-- The instances of a system; `N_INST` is the length of the list (R8). -/
structure System where
  instances : List State
  deriving DecidableEq, Repr

/-- Every instance starts in its reset state (R169, R183). -/
def System.reset (nInst : Nat) : System := { instances := List.replicate nInst State.reset }

/-- One step of instance `k`; instances may be interleaved in any way (R49). -/
def System.stepAt (k : Nat) (sys : System) : System := { instances := sys.instances.modify k advance }

end Sys2Proof.Machine
end

