-- ==== Sys2Proof/Safety.lean ====
section
/-! DEFINITION. The terms claims are stated in: the closed form of a call (`40_generate.md` R97, R105), the state key and
the result key (`42_invariants.md` R144, R145), which calls and runs the order rules speak of (R143, R146, R148, R151),
and the decoding of a text (`41_string_form.md` R133). -/

namespace Sys2Proof.Machine

/-! ### The closed form of a call -/

/-- The seed of a fresh call: `0b0 || w0[2:0] || w0[15:8] || w0[21:16]` (R97). -/
def seedOf (w0 : Word64) : Counter :=
  (0#1 ++ w0.extractLsb' 0 3 ++ w0.extractLsb' 8 8 ++ w0.extractLsb' 16 6).cast (by rfl)

/-- `tail (fresh)` (R105). -/
def freshTail (w0 w1 : Word64) : BitVec 56 :=
  (w0.extractLsb' 24 8 ++ w0.extractLsb' 32 8 ++ w0.extractLsb' 40 8 ++ w0.extractLsb' 48 8 ++ w0.extractLsb' 56 8 ++
  w1.extractLsb' 0 8 ++ w1.extractLsb' 8 8).cast (by rfl)

/-- `tail (stalled)` (R105). -/
def stalledTail (w0 : Word64) : BitVec 56 :=
  (w0.extractLsb' 8 8 ++ w0.extractLsb' 16 8 ++ w0.extractLsb' 24 8 ++ w0.extractLsb' 32 8 ++ w0.extractLsb' 40 8 ++
  w0.extractLsb' 48 8 ++ w0.extractLsb' 56 8).cast (by rfl)

/-- The upper 72 bits of a result, from the registers after the call (R105, R145). -/
def resultKey (pt : Word64) (sc : Counter) : BitVec 72 :=
  (pt.setWidth 48 ++ 0b0111#4 ++ sc.extractLsb' 6 12 ++ 0b10#2 ++ sc.extractLsb' 0 6).cast (by rfl)

/-- The result, from the registers after the call and its random tail (R105). -/
def layout (pt : Word64) (sc : Counter) (tail : BitVec 56) : Uuid := (resultKey pt sc ++ tail).cast (by rfl)

/-- The text a command returns beside its value: none for GEN, the text of the value for GENS (R90, R130). -/
def textOf : Instr → Uuid → Option Text
  | .gen => fun _ => none
  | .gens => fun u => some (strPort (hex32 u))

/-- The state a finished command leaves, in closed form: the two registers, `Idle`, the request used up, and the response
with the result, its text where `textOf` gives one, and the number of words drawn (R90, R104, R105). -/
def State.emitted (s : State) (pt : Word64) (sc : Counter) (tail : BitVec 56) (textOf : Uuid → Option Text)
    (draws : Nat) : State where
  prevTimestamp := pt
  sequenceCounter := sc
  control := .idle
  inputs := s.inputs.tail
  response := some { uuid := layout pt sc tail, str := textOf (layout pt sc tail), rngTake := draws }

/-! ### Which branch a call takes -/

/-- A command in this state would be fresh, with clock sample `now` and drawn words `w0`, `w1` (R92, R95). -/
def State.FreshCall (s : State) (now w0 w1 : Word64) : Prop :=
  s.clockSample = some now ∧ s.rngAnswers.take 2 = [w0, w1] ∧ s.prevTimestamp.toNat < now.toNat

/-- A command in this state would be stalled, with clock sample `now` and drawn word `w0` (R92, R93, R95). -/
def State.StalledCall (s : State) (now w0 : Word64) : Prop :=
  s.clockSample = some now ∧ s.rngAnswers.take 1 = [w0] ∧ now.toNat ≤ s.prevTimestamp.toNat

/-- A command stands at the front of the inputs, and no reset beside it (R62). -/
def State.Commanded (s : State) : Prop := ∃ op, s.request = .command op

/-- The next step runs a command to its end (R106, R162). -/
def State.Completes (s : State) : Prop := s.Commanded ∧ s.answered = true

/-- The next step wraps `prev_timestamp` at `2^64` (R99, D7): a command runs with both registers at their top. Such a
command is stalled, since no sample is above `2^64 - 1`. -/
def State.Wraps (s : State) : Prop :=
  s.Completes ∧ s.prevTimestamp = 0xFFFFFFFFFFFFFFFF#64 ∧ s.sequenceCounter = Config.ctrMax

/-! ### Keys and runs -/

/-- `K = PT * 2^18 + SC`, an 82-bit number (R144). -/
def State.key (s : State) : Nat := s.prevTimestamp.toNat * 2 ^ 18 + s.sequenceCounter.toNat

/-- The response that is valid, if any, was laid out from the registers as they stand (R105, R145), its text is the text
of its value (R130), and its command drew one word or two (R95). -/
def State.ResponseMatches (s : State) : Prop :=
  ∀ r, s.response = some r →
    keyOf r.uuid = resultKey s.prevTimestamp s.sequenceCounter ∧
    (r.str = none ∨ r.str = some (strPort (hex32 r.uuid))) ∧
    (r.rngTake = 1 ∨ r.rngTake = 2)

/-- The next `n` steps hold no reset and no wrap of `prev_timestamp` (the premises of R148). -/
def SteadyRun (s : State) (n : Nat) : Prop :=
  ∀ k, k < n → (after k s).request ≠ .reset ∧ ¬ (after k s).Wraps

/-- The next `n` steps each run a stalled command to its end (R143, R151). -/
def StalledRun (s : State) (n : Nat) : Prop :=
  ∀ k, k < n → (after k s).Commanded ∧ ∃ now w0, (after k s).StalledCall now w0

/-- The results of the commands that finish in the next `n` steps, in order. -/
def emittedBy (s : State) : Nat → List Uuid
  | 0 => []
  | n + 1 => emittedBy s n ++ ((after (n + 1) s).response.map (·.uuid)).toList

/-! ### Reading a text back (R133) -/

/-- The value of a hexadecimal character of the text (R131). -/
def nibbleOf (c : Char) : Option (BitVec 4) :=
  if '0' ≤ c ∧ c ≤ '9' then some (BitVec.ofNat 4 (c.toNat - '0'.toNat))
  else if 'a' ≤ c ∧ c ≤ 'f' then some (BitVec.ofNat 4 (c.toNat - 'a'.toNat + 10))
  else none

/-- The bytes of a text, two characters a byte (R133); none where it has another character or an odd length. -/
def unhex : List Char → Option (List Byte)
  | [] => some []
  | [_] => none
  | a :: b :: rest =>
    match nibbleOf a, nibbleOf b, unhex rest with
    | some hi, some lo, some bytes => some ((hi ++ lo).cast (by rfl) :: bytes)
    | _, _, _ => none

end Sys2Proof.Machine
end

