-- ==== Sys2Proof/Certificates/Slice0/Obligations.lean ====
section
/-! DEFINITION. The statements for the provers, from the numbered rules of spec/. Runs of a command use `exec i s`, and hold
for both commands where they quantify over `i`. -/

open Sys2Proof Sys2Proof.Machine

/-! ### Reset, decoding, the step -/

/-- R180: a reset puts both registers to 0 and the control state to `Idle`, and wins over a command beside it, which is
not executed and gives no response. -/
def Obligations.ResetWinsAndClearsRegisters : Prop :=
  ∀ (s : State) (p : PortInputs) (rest : List PortInputs), s.inputs = p :: rest → p.rst = true →
    step s = .next { prevTimestamp := 0, sequenceCounter := 0, control := .idle, inputs := rest, response := none }

/-- R21, R22, R23, R32, R181: the values the spec gives for reset. That no request is pending is the model's choice (log
entry 1). -/
def Obligations.ResetStateHoldsResetValues : Prop :=
  State.reset.prevTimestamp = 0 ∧ State.reset.sequenceCounter = 0 ∧ State.reset.control = .idle ∧
  State.reset.response = none ∧ State.reset.inputs = []

/-- R61, R75: `cmd_op = 0` is GEN and `cmd_op = 1` is GENS, and these are all. -/
def Obligations.CommandWordsSelectTheirCommands : Prop :=
  decode 0#1 = .gen ∧ decode 1#1 = .gens ∧ encode .gen = 0#1 ∧ encode .gens = 1#1 ∧
  decodeTableWord 1 0 = some .gen ∧ decodeTableWord 1 1 = some .gens

/-- R61, R75, R76: decoding and encoding are inverse to each other, and no command word is left over. -/
def Obligations.DecodeAndEncodeAgree : Prop :=
  (∀ i : Instr, i.wellFormed = true ∧ decode (encode i) = i) ∧ ∀ op : BitVec 1, encode (decode op) = op

/-- R62, R48: where a command stands at the front of the inputs and no reset beside it, a step is `exec` of the command
decoded from its word; nothing is added around it. -/
def Obligations.StepRunsTheDecodedCommand : Prop :=
  ∀ (s : State) (p : PortInputs) (rest : List PortInputs) (i : Instr), s.inputs = p :: rest → p.rst = false →
    p.cmdValid = true → decode p.cmdOp = i → i.wellFormed = true → step s = exec i s

/-- R62, R193: with no command and no reset nothing changes: the registers and the control state keep their values. That
the transaction is used up, and that no response is valid after it, is the model's (log entry 1, DESIGN CHOICE, and log
entry 5, DEDUCED from the one pulse of `rsp_valid` in R62, which does not say how long the outputs hold). -/
def Obligations.IdleTransactionKeepsRegisters : Prop :=
  (∀ s : State, s.inputs = [] → step s = .next { s with response := none }) ∧
  ∀ (s : State) (p : PortInputs) (rest : List PortInputs), s.inputs = p :: rest → p.rst = false →
    p.cmdValid = false → step s = .next { s with inputs := rest, response := none }

/-- R160, R106: the step has one outcome, the next state, and a command whose collaborators answer ends with a result.
Where a collaborator never answers, R162 says that the command has no step; that the model's step answers a next state
there too is its own form (log entry 6, DEDUCED), no sentence of the spec. -/
def Obligations.EveryStepAnswersNext : Prop :=
  (∀ s : State, ∃ t, step s = .next t) ∧
  ∀ (i : Instr) (s : State), s.answered = true → ∃ t r, exec i s = .next t ∧ t.response = some r

/-- R106: a command is a total function of the two registers, the clock sample and the drawn words: two states that agree
on these give the same registers and the same response, whatever else they hold, and in the stalled branch `w1` is
ignored. -/
def Obligations.CommandIsFunctionOfItsInputs : Prop :=
  ∀ (i : Instr) (s s' : State), s.prevTimestamp = s'.prevTimestamp → s.sequenceCounter = s'.sequenceCounter →
    s.clockSample = s'.clockSample → s.answered = true →
    (∀ now, s.clockSample = some now → s.rngAnswers.take (wordsNeeded now s.prevTimestamp) =
      s'.rngAnswers.take (wordsNeeded now s.prevTimestamp)) →
    ∃ t t' r, exec i s = .next t ∧ exec i s' = .next t' ∧ t.response = some r ∧ t'.response = some r ∧
      t'.prevTimestamp = t.prevTimestamp ∧ t'.sequenceCounter = t.sequenceCounter

/-! ### GEN and GENS in closed form -/

/-- R105: GEN in its three cases: the registers, the 128-bit result and everything else the state holds. The result of
`State.emitted` is `layout PT' SC' tail`. The draw counts 2 and 1 are not in R105: R95 gives them by the spec's own
decision D8 (log entry 8, DEDUCED). -/
def Obligations.GenClosedForm : Prop :=
  (∀ (s : State) (now w0 w1 : Word64), s.FreshCall now w0 w1 →
    exec .gen s = .next (s.emitted now (seedOf w0) (freshTail w0 w1) (fun _ => none) 2)) ∧
  (∀ (s : State) (now w0 : Word64), s.StalledCall now w0 → s.sequenceCounter.toNat < 0x3FFFF →
    exec .gen s = .next (s.emitted s.prevTimestamp (s.sequenceCounter + 1) (stalledTail w0) (fun _ => none) 1)) ∧
  ∀ (s : State) (now w0 : Word64), s.StalledCall now w0 → s.sequenceCounter.toNat = 0x3FFFF →
    exec .gen s = .next (s.emitted (s.prevTimestamp + 1) 0 (stalledTail w0) (fun _ => none) 1)

/-- R130, R131, R105: GENS in its three cases: the effect of one GEN, and the text of the result on `str`. The draw
counts 2 and 1 are those of R95, by the spec's own decision D8 (log entry 8, DEDUCED); the text's nibble order and its
codes on the port are PRESUMED (log entry 10). -/
def Obligations.GensClosedForm : Prop :=
  (∀ (s : State) (now w0 w1 : Word64), s.FreshCall now w0 w1 →
    exec .gens s =
      .next (s.emitted now (seedOf w0) (freshTail w0 w1) (fun u => some (strPort (hex32 u))) 2)) ∧
  (∀ (s : State) (now w0 : Word64), s.StalledCall now w0 → s.sequenceCounter.toNat < 0x3FFFF →
    exec .gens s = .next (s.emitted s.prevTimestamp (s.sequenceCounter + 1) (stalledTail w0)
      (fun u => some (strPort (hex32 u))) 1)) ∧
  ∀ (s : State) (now w0 : Word64), s.StalledCall now w0 → s.sequenceCounter.toNat = 0x3FFFF →
    exec .gens s =
      .next (s.emitted (s.prevTimestamp + 1) 0 (stalledTail w0) (fun u => some (strPort (hex32 u))) 1)

/-- R130, R133 (b): for the same state and the same inputs GENS does what GEN does, and returns the text of what GEN
returns. The form of the text on the port is PRESUMED (log entry 10). -/
def Obligations.GensIsOneGenWithItsText : Prop :=
  ∀ (s t : State) (r : Response), exec .gen s = .next t → t.response = some r →
    exec .gens s = .next { t with response := some { r with str := some (strPort (hex32 r.uuid)) } }

/-- R46: a command is not idempotent: after a command, a second one on the same answers returns another value. The premise excludes
the wrap at `2^64` (D7), after which the second command may be fresh again. -/
def Obligations.RepeatedCommandReturnsAnotherValue : Prop :=
  ∀ (i j : Instr) (s s' : State), s.answered = true →
    ¬ (s.prevTimestamp = 0xFFFFFFFFFFFFFFFF#64 ∧ s.sequenceCounter = Config.ctrMax) →
    s'.clockSample = s.clockSample →
    s'.rngAnswers = s.rngAnswers → (∃ t, exec i s = .next t ∧ s'.prevTimestamp = t.prevTimestamp ∧
      s'.sequenceCounter = t.sequenceCounter) →
    ∃ t t' r r', exec i s = .next t ∧ exec j s' = .next t' ∧ t.response = some r ∧ t'.response = some r' ∧
      r.uuid ≠ r'.uuid

/-! ### The units -/

/-- R92: the comparator is the unsigned comparison of `now_ms` with `prev_timestamp`, and chooses exactly one branch. -/
def Obligations.ComparatorChoosesTheBranch : Prop :=
  ∀ (now : Word64) (c : Call),
    (fresh now c.prevTimestamp = true ↔ c.prevTimestamp.toNat < now.toNat) ∧
    (c.prevTimestamp.toNat < now.toNat → generate now c = (freshUnit now c).map fun r => pack r.1 r.2) ∧
    (now.toNat ≤ c.prevTimestamp.toNat → generate now c = (stalledUnit c).map fun r => pack r.1 r.2)

/-- R93: equality, regression and zero fall on the stalled side; in the reset state every sample from 1 on is fresh. -/
def Obligations.EqualityRegressionAndZeroAreStalled : Prop :=
  (∀ now prev : Word64, now = prev → fresh now prev = false) ∧
  (∀ now prev : Word64, now.toNat < prev.toNat → fresh now prev = false) ∧
  (∀ prev : Word64, fresh 0 prev = false) ∧
  ∀ now : Word64, 1 ≤ now.toNat → fresh now State.reset.prevTimestamp = true

/-- R94, R95, R70, R42: `FillRandom(base, N)` writes byte lane `k mod 8` of word `k div 8` to `u[base + k]`, least
significant byte first, draws `ceil(N / 8)` words in order, and changes nothing else. The number of words drawn is the
spec's own decision D8 (log entry 8, DEDUCED). -/
def Obligations.FillRandomWritesByteLanes : Prop :=
  ∀ (base n : Nat) (c : Call), base + n ≤ 16 → (n + 7) / 8 ≤ c.rngLeft.length →
    ∃ c', fillRandom base n c = some c' ∧
      (∀ k, k < n → c'.get (base + k) = (c.rngLeft.getD (k / 8) 0).extractLsb' (8 * (k % 8)) 8) ∧
      (∀ a, a < base ∨ base + n ≤ a → c'.get a = c.get a) ∧
      c'.rngTaken = c.rngTaken + (n + 7) / 8 ∧ c'.rngLeft = c.rngLeft.drop ((n + 7) / 8) ∧
      c'.prevTimestamp = c.prevTimestamp ∧ c'.sequenceCounter = c.sequenceCounter

/-- R96: the fresh unit: ten random bytes, the guard bit cleared, the seed taken from the cleared byte, `now_ms` stored
and emitted. -/
def Obligations.FreshUnitSeedsFromTheClearedBytes : Prop :=
  ∀ (now : Word64) (c : Call) (w0 w1 : Word64) (rest : List Word64), c.rngLeft = w0 :: w1 :: rest →
    ∃ c', freshUnit now c = some (now, c') ∧ c'.prevTimestamp = now ∧
      c'.get 6 = w0.extractLsb' 0 8 &&& 0xF7#8 ∧
      (∀ k, 1 ≤ k → k < 8 → c'.get (6 + k) = w0.extractLsb' (8 * k) 8) ∧
      c'.get 14 = w1.extractLsb' 0 8 ∧ c'.get 15 = w1.extractLsb' 8 8 ∧
      c'.sequenceCounter.toNat =
        (c'.get 6).toNat % 16 * 2 ^ 14 + (c'.get 7).toNat * 2 ^ 6 + (c'.get 8).toNat % 64 ∧
      (∀ a, a < 6 → c'.get a = c.get a) ∧ c'.rngTaken = c.rngTaken + 2

/-- R97: the seed of a fresh call in terms of the drawn word, its bound, its extremes, and that `w0[7:3]` and `w0[23:22]`
reach neither the seed nor the result. -/
def Obligations.SeedIsTakenFromTheDrawnWord : Prop :=
  ∀ (i : Instr) (s : State) (now w0 w1 : Word64), s.FreshCall now w0 w1 →
    ∃ t, exec i s = .next t ∧ t.sequenceCounter.getLsbD 17 = false ∧
      t.sequenceCounter.extractLsb' 14 3 = w0.extractLsb' 0 3 ∧
      t.sequenceCounter.extractLsb' 6 8 = w0.extractLsb' 8 8 ∧
      t.sequenceCounter.extractLsb' 0 6 = w0.extractLsb' 16 6 ∧
      t.sequenceCounter.toNat ≤ 0x1FFFF ∧
      (w0 = 0xFFFFFFFFFFFFFFFF#64 → t.sequenceCounter = 0x1FFFF#18) ∧ (w0 = 0 → t.sequenceCounter = 0) ∧
      ∀ (s' : State) (w0' : Word64), s'.FreshCall now w0' w1 →
        w0' &&& 0xFFFFFFFFFF3FFF07#64 = w0 &&& 0xFFFFFFFFFF3FFF07#64 →
        ∃ t', exec i s' = .next t' ∧ t'.sequenceCounter = t.sequenceCounter ∧ t'.response = t.response

/-- R98: the stalled unit increments the counter by one; past `0x3FFFF` it resets it to 0 and adds one to
`prev_timestamp`; the emitted timestamp is `prev_timestamp` after the update. -/
def Obligations.StalledUnitCountsAndBorrows : Prop :=
  ∀ (c : Call) (w0 : Word64) (rest : List Word64), c.rngLeft = w0 :: rest →
    ∃ t c', stalledUnit c = some (t, c') ∧ t = c'.prevTimestamp ∧
      (c.sequenceCounter.toNat + 1 ≤ 0x3FFFF →
        c'.sequenceCounter.toNat = c.sequenceCounter.toNat + 1 ∧ c'.prevTimestamp = c.prevTimestamp) ∧
      (0x3FFFF < c.sequenceCounter.toNat + 1 →
        c'.sequenceCounter = 0 ∧ c'.prevTimestamp.toNat = (c.prevTimestamp.toNat + 1) % 2 ^ 64)

/-- R99: a stalled command adds one to the pair of registers taken as one 82-bit number; after a rollover that does not
wrap, the logical clock is ahead of the sample. -/
def Obligations.StalledCommandAddsOneToTheKey : Prop :=
  ∀ (i : Instr) (s : State) (now w0 : Word64), s.StalledCall now w0 →
    ∃ t, exec i s = .next t ∧ t.key = (s.key + 1) % 2 ^ 82 ∧
      (s.sequenceCounter = Config.ctrMax → s.prevTimestamp.toNat < 2 ^ 64 - 1 →
        now.toNat < t.prevTimestamp.toNat)

/-- R100: `FillCounter()`: the counter's bits in bytes 6, 7 and 8, random bytes in 9 to 15, no random bit left in byte 8. -/
def Obligations.FillCounterScattersTheCounter : Prop :=
  ∀ (c : Call) (w0 : Word64) (rest : List Word64), c.rngLeft = w0 :: rest →
    ∃ c', fillCounter c = some c' ∧
      (c'.get 6).toNat = c.sequenceCounter.toNat / 2 ^ 14 ∧
      (c'.get 7).toNat = c.sequenceCounter.toNat / 2 ^ 6 % 256 ∧
      (c'.get 8).toNat = c.sequenceCounter.toNat % 64 ∧
      (∀ k, 1 ≤ k → k < 8 → c'.get (8 + k) = w0.extractLsb' (8 * k) 8) ∧
      (∀ a, a < 6 → c'.get a = c.get a) ∧ c'.rngTaken = c.rngTaken + 1 ∧
      c'.prevTimestamp = c.prevTimestamp ∧ c'.sequenceCounter = c.sequenceCounter

/-- R101, R69: `PackTimestamp(T)` writes bits 47 to 0 of `T` to bytes 0 to 5, most significant byte first, and nothing
else; below `2^48` the field holds `T` exactly. -/
def Obligations.PackTimestampIsBigEndian : Prop :=
  ∀ (t : Word64) (c : Call),
    (∀ k, k < 6 → ((packTimestamp t c).get k).toNat = t.toNat / 2 ^ (40 - 8 * k) % 256) ∧
    (∀ a, 6 ≤ a → (packTimestamp t c).get a = c.get a) ∧
    (packTimestamp t c).prevTimestamp = c.prevTimestamp ∧
    (packTimestamp t c).sequenceCounter = c.sequenceCounter ∧
    (t.toNat < 2 ^ 48 →
      ((packTimestamp t c).get 0).toNat * 2 ^ 40 + ((packTimestamp t c).get 1).toNat * 2 ^ 32 +
      ((packTimestamp t c).get 2).toNat * 2 ^ 24 + ((packTimestamp t c).get 3).toNat * 2 ^ 16 +
      ((packTimestamp t c).get 4).toNat * 2 ^ 8 + ((packTimestamp t c).get 5).toNat = t.toNat)

/-- R102, R103, R43: the version and the variant are written by read-modify-write of bytes 6 and 8 alone. -/
def Obligations.PackVersionAndVariantKeepTheOtherBits : Prop :=
  ∀ c : Call,
    (packVersion c).get 6 = (c.get 6 &&& 0x0F#8) ||| 0x70#8 ∧ (∀ a, a ≠ 6 → (packVersion c).get a = c.get a) ∧
    (packVariant c).get 8 = (c.get 8 &&& 0x3F#8) ||| 0x80#8 ∧ (∀ a, a ≠ 8 → (packVariant c).get a = c.get a)

/-- R68: gather is the inverse of scatter on the 18 bits of the counter field, and after the guard bit is cleared its
result is at most `0x1FFFF`. -/
def Obligations.GatherInvertsScatter : Prop :=
  (∀ c : Counter, gatherCounter (counterHigh c) (counterMid c) (counterLow c) = c) ∧
  (∀ b6 b7 b8 : Byte, counterHigh (gatherCounter b6 b7 b8) = b6 &&& 0x0F#8 ∧
    counterMid (gatherCounter b6 b7 b8) = b7 ∧ counterLow (gatherCounter b6 b7 b8) = b8 &&& 0x3F#8) ∧
  ∀ b6 b7 b8 : Byte, (gatherCounter (clearGuard b6) b7 b8).toNat ≤ 0x1FFFF ∧
    (gatherCounter (clearGuard b6) b7 b8).getLsbD 17 = false

/-- R40: every byte of the buffer is written before the return, so what the buffer held at the start of the call never
reaches the result. -/
def Obligations.OutputBufferIsWhollyWritten : Prop :=
  ∀ (s : State) (now : Word64) (c : Call), generate now (Call.start s) = some c →
    c.out.map Prod.fst = List.range 16 ∧ c.out.wf = true ∧
    ∀ m : Memory, ∃ c', generate now { Call.start s with out := m } = some c' ∧ c'.out.uuid = c.out.uuid

/-! ### The result -/

/-- R141, R65, R66: every result carries version `0b0111` and variant `0b10`. -/
def Obligations.EveryResultHasVersionAndVariant : Prop :=
  ∀ (i : Instr) (s : State), s.answered = true →
    ∃ t r, exec i s = .next t ∧ t.response = some r ∧ verOf r.uuid = 0b0111#4 ∧ varOf r.uuid = 0b10#2 ∧
      byteOf r.uuid 6 >>> 4 = 0x7#8 ∧ byteOf r.uuid 6 &&& 0xF0#8 = 0x70#8 ∧
      byteOf r.uuid 8 >>> 6 = 0b10#8 ∧ byteOf r.uuid 8 &&& 0xC0#8 = 0x80#8

/-- R142: the guard bit is 0 after every fresh call; by counting it becomes 1 from `0x1FFFF` on, and a rollover returns
it to 0. -/
def Obligations.GuardBitIsClearAfterAFreshCall : Prop :=
  (∀ (i : Instr) (s : State) (now w0 w1 : Word64), s.FreshCall now w0 w1 →
    ∃ t r, exec i s = .next t ∧ t.response = some r ∧ byteOf r.uuid 6 &&& 0x08#8 = 0#8 ∧
      t.sequenceCounter.getLsbD 17 = false ∧ t.sequenceCounter.toNat ≤ 0x1FFFF) ∧
  (∀ (i : Instr) (s : State) (now w0 : Word64), s.StalledCall now w0 → s.sequenceCounter = 0x1FFFF#18 →
    ∃ t r, exec i s = .next t ∧ t.response = some r ∧ t.sequenceCounter = 0x20000#18 ∧
      byteOf r.uuid 6 &&& 0x08#8 = 0x08#8) ∧
  ∀ (i : Instr) (s : State) (now w0 : Word64), s.StalledCall now w0 → s.sequenceCounter = 0x3FFFF#18 →
    ∃ t r, exec i s = .next t ∧ t.response = some r ∧ t.sequenceCounter = 0 ∧ byteOf r.uuid 6 &&& 0x08#8 = 0#8

/-- R74: reading a result back gives the registers after the command: `TsOf`, `CtrOf`, `VerOf`, `VarOf`, and `KeyOf` and
`TailOf` put together are the value. -/
def Obligations.ReadingBackGivesTheRegisters : Prop :=
  ∀ (i : Instr) (s : State), s.answered = true →
    ∃ t r, exec i s = .next t ∧ t.response = some r ∧
      (tsOf r.uuid).toNat = t.prevTimestamp.toNat % 2 ^ 48 ∧ ctrOf r.uuid = t.sequenceCounter ∧
      verOf r.uuid = 0b0111#4 ∧ varOf r.uuid = 0b10#2 ∧
      r.uuid.toNat = (keyOf r.uuid).toNat * 2 ^ 56 + (tailOf r.uuid).toNat

/-- R71: where every byte of the result comes from, in both branches. -/
def Obligations.EveryByteHasItsSource : Prop :=
  (∀ (i : Instr) (s : State) (now w0 w1 : Word64), s.FreshCall now w0 w1 →
    ∃ t r, exec i s = .next t ∧ t.response = some r ∧
      (∀ k, k < 6 → byteOf r.uuid k = t.prevTimestamp.extractLsb' (40 - 8 * k) 8) ∧
      (byteOf r.uuid 6).toNat = 0x70 + t.sequenceCounter.toNat / 2 ^ 14 ∧
      (byteOf r.uuid 6).toNat = 0x70 + w0.toNat % 8 ∧
      byteOf r.uuid 7 = w0.extractLsb' 8 8 ∧ byteOf r.uuid 7 = t.sequenceCounter.extractLsb' 6 8 ∧
      (byteOf r.uuid 8).toNat = 0x80 + t.sequenceCounter.toNat % 64 ∧
      (byteOf r.uuid 8).toNat = 0x80 + w0.toNat / 2 ^ 16 % 64 ∧
      (∀ k, k < 5 → byteOf r.uuid (9 + k) = w0.extractLsb' (24 + 8 * k) 8) ∧
      byteOf r.uuid 14 = w1.extractLsb' 0 8 ∧ byteOf r.uuid 15 = w1.extractLsb' 8 8) ∧
  ∀ (i : Instr) (s : State) (now w0 : Word64), s.StalledCall now w0 →
    ∃ t r, exec i s = .next t ∧ t.response = some r ∧
      (∀ k, k < 6 → byteOf r.uuid k = t.prevTimestamp.extractLsb' (40 - 8 * k) 8) ∧
      (byteOf r.uuid 6).toNat = 0x70 + t.sequenceCounter.toNat / 2 ^ 14 ∧
      byteOf r.uuid 7 = t.sequenceCounter.extractLsb' 6 8 ∧
      (byteOf r.uuid 8).toNat = 0x80 + t.sequenceCounter.toNat % 64 ∧
      ∀ k, k < 7 → byteOf r.uuid (9 + k) = w0.extractLsb' (8 + 8 * k) 8

/-- R72: which drawn bits reach the output: two fresh results on one sample are equal exactly when the 73 bits of the
drawn words that R72 lists are equal; two stalled results on the same registers exactly when `w0[63:8]` is, whatever the
samples were. -/
def Obligations.DrawnBitsThatReachTheOutput : Prop :=
  (∀ (i : Instr) (s s' : State) (now w0 w1 w0' w1' : Word64), s.FreshCall now w0 w1 → s'.FreshCall now w0' w1' →
    ∃ t t' r r', exec i s = .next t ∧ exec i s' = .next t' ∧ t.response = some r ∧ t'.response = some r' ∧
      (r.uuid = r'.uuid ↔ w0 &&& 0xFFFFFFFFFF3FFF07#64 = w0' &&& 0xFFFFFFFFFF3FFF07#64 ∧
        w1.extractLsb' 0 16 = w1'.extractLsb' 0 16)) ∧
  ∀ (i : Instr) (s s' : State) (now now' w0 w0' : Word64), s.StalledCall now w0 → s'.StalledCall now' w0' →
    s.prevTimestamp = s'.prevTimestamp → s.sequenceCounter = s'.sequenceCounter →
    ∃ t t' r r', exec i s = .next t ∧ exec i s' = .next t' ∧ t.response = some r ∧ t'.response = some r' ∧
      (r.uuid = r'.uuid ↔ w0.extractLsb' 8 56 = w0'.extractLsb' 8 56)

/-- R182: the first command after reset: a sample from 1 on is emitted with a fresh seed; a sample of 0 gives timestamp 0
and counter 1. -/
def Obligations.FirstCommandAfterReset : Prop :=
  ∀ (i : Instr) (s : State), s.prevTimestamp = State.reset.prevTimestamp →
    s.sequenceCounter = State.reset.sequenceCounter → s.answered = true →
    (∀ now, s.clockSample = some now → 1 ≤ now.toNat →
      ∃ t r w0, exec i s = .next t ∧ t.response = some r ∧ t.prevTimestamp = now ∧
        (tsOf r.uuid).toNat = now.toNat % 2 ^ 48 ∧ s.rngAnswers.head? = some w0 ∧ ctrOf r.uuid = seedOf w0) ∧
    (s.clockSample = some 0 →
      ∃ t r, exec i s = .next t ∧ t.response = some r ∧ tsOf r.uuid = 0 ∧ ctrOf r.uuid = 1)

/-- R162, D17: while a collaborator does not answer, the command never ends: the registers and the pending request stay as
they are for any number of steps. R162 says that the command has no step; that the model's step answers this state, with
no response valid, is its own form (log entry 6, DEDUCED). -/
def Obligations.UnansweredCommandNeverEnds : Prop :=
  ∀ s : State, s.Commanded → s.answered = false →
    (∀ i, exec i s = .next { s with response := none }) ∧ ∀ n, after (n + 1) s = { s with response := none }

/-! ### Order -/

/-- R144: a command that does not wrap raises the key, and across a run every finished command has a greater key than
all states before it. -/
def Obligations.StateKeyGrowsWithEveryCommand : Prop :=
  (∀ (i : Instr) (s : State), s.answered = true →
    ¬ (s.prevTimestamp = 0xFFFFFFFFFFFFFFFF#64 ∧ s.sequenceCounter = Config.ctrMax) →
    ∃ t, exec i s = .next t ∧ s.key < t.key) ∧
  ∀ (s : State) (n j k : Nat), SteadyRun s n → j < k → k ≤ n → (after k s).response.isSome = true →
    (after j s).key < (after k s).key

/-- R145: for two states whose responses were laid out from their registers, and whose timestamps are below `2^48`, the
keys of the results compare as the registers do. -/
def Obligations.ResultKeysCompareAsTheRegisters : Prop :=
  ∀ (a b : State) (ra rb : Response), a.ResponseMatches → b.ResponseMatches → a.response = some ra →
    b.response = some rb → a.prevTimestamp.toNat < 2 ^ 48 → b.prevTimestamp.toNat < 2 ^ 48 →
    ((keyOf ra.uuid).toNat < (keyOf rb.uuid).toNat ↔
      a.prevTimestamp.toNat < b.prevTimestamp.toNat ∨
      (a.prevTimestamp = b.prevTimestamp ∧ a.sequenceCounter.toNat < b.sequenceCounter.toNat))

/-- R146: the logical clock never goes back and is never behind the sample, in one command and across a run. -/
def Obligations.LogicalClockIsNeverBehindTheSample : Prop :=
  (∀ (i : Instr) (s : State) (now : Word64), s.answered = true → s.clockSample = some now →
    ¬ (s.prevTimestamp = 0xFFFFFFFFFFFFFFFF#64 ∧ s.sequenceCounter = Config.ctrMax) →
    ∃ t, exec i s = .next t ∧ s.prevTimestamp.toNat ≤ t.prevTimestamp.toNat ∧
      now.toNat ≤ t.prevTimestamp.toNat) ∧
  ∀ (s : State) (n : Nat), SteadyRun s n →
    s.prevTimestamp.toNat ≤ (after n s).prevTimestamp.toNat ∧
    ∀ (k : Nat) (now : Word64), k < n → (after k s).Completes → (after k s).clockSample = some now →
      now.toNat ≤ (after n s).prevTimestamp.toNat

/-- R147: of an earlier and a later result of one instance, while the timestamp is below `2^48`: the upper 64 bits do not
fall, the upper 72 bits and the upper 80 bits grow. -/
def Obligations.ResultPrefixesAreOrdered : Prop :=
  ∀ (s : State) (n : Nat) (ra rb : Response), s.ResponseMatches → s.response = some ra → 1 ≤ n →
    SteadyRun s n → (after n s).response = some rb → (after n s).prevTimestamp.toNat < 2 ^ 48 →
    ra.uuid.toNat / 2 ^ 64 ≤ rb.uuid.toNat / 2 ^ 64 ∧ ra.uuid.toNat / 2 ^ 56 < rb.uuid.toNat / 2 ^ 56 ∧
    ra.uuid.toNat / 2 ^ 48 < rb.uuid.toNat / 2 ^ 48

/-- R148: strict monotonicity within an instance: with no reset and no wrap between the calls and the later timestamp
below `2^48`, the later result is the greater. -/
def Obligations.ResultsStrictlyIncrease : Prop :=
  ∀ (s : State) (n : Nat) (ra rb : Response), s.ResponseMatches → s.response = some ra → 1 ≤ n →
    SteadyRun s n → (after n s).response = some rb → (after n s).prevTimestamp.toNat < 2 ^ 48 →
    ra.uuid.toNat < rb.uuid.toNat

/-- R149: all results of a run of one instance are pairwise distinct, for any number of calls. -/
def Obligations.ResultsArePairwiseDistinct : Prop :=
  ∀ (s : State) (n : Nat), SteadyRun s n → (after n s).prevTimestamp.toNat < 2 ^ 48 → (emittedBy s n).Nodup

/-- R152: a later sample suffices: a fresh result after a reset, or of another instance, is greater than an earlier result
if its sample is above the logical clock the earlier instance had reached. Stalled results, and what an earlier sample
does, are in `OrderAcrossResetFollowsTheSample`. -/
def Obligations.LaterSampleGivesGreaterValueAcrossReset : Prop :=
  ∀ (i : Instr) (s u : State) (ra : Response) (now w0 w1 : Word64), s.ResponseMatches → s.response = some ra →
    u.FreshCall now w0 w1 → s.prevTimestamp.toNat < now.toNat → now.toNat < 2 ^ 48 →
    ∃ t r, exec i u = .next t ∧ t.response = some r ∧ ra.uuid.toNat < r.uuid.toNat

/-- R152: the rest of the order across a reset or between instances. A stalled result whose sample is above the logical
clock the earlier instance had reached is greater too, while the new timestamp has not wrapped and is below `2^48`; and a
fresh result whose sample is below that logical clock is smaller. With an equal sample R152 leaves the order to the random
bits. -/
def Obligations.OrderAcrossResetFollowsTheSample : Prop :=
  (∀ (i : Instr) (s u : State) (ra : Response) (now w0 : Word64), s.ResponseMatches → s.response = some ra →
    u.StalledCall now w0 → s.prevTimestamp.toNat < now.toNat →
    ¬ (u.prevTimestamp = 0xFFFFFFFFFFFFFFFF#64 ∧ u.sequenceCounter = Config.ctrMax) →
    ∃ t r, exec i u = .next t ∧ t.response = some r ∧
      (t.prevTimestamp.toNat < 2 ^ 48 → ra.uuid.toNat < r.uuid.toNat)) ∧
  ∀ (i : Instr) (s u : State) (ra : Response) (now w0 w1 : Word64), s.ResponseMatches → s.response = some ra →
    u.FreshCall now w0 w1 → now.toNat < s.prevTimestamp.toNat → s.prevTimestamp.toNat < 2 ^ 48 →
    ∃ t r, exec i u = .next t ∧ t.response = some r ∧ r.uuid.toNat < ra.uuid.toNat

/-! ### Counting and drift -/

/-- R151, R99: after `n` stalled commands in a row the counter has grown by `n` modulo `2^18` and the logical clock by
the number of rollovers, `floor((SC + n) / 2^18)`. -/
def Obligations.StalledRunCountsItsRollovers : Prop :=
  ∀ (s : State) (n : Nat), StalledRun s n →
    (after n s).sequenceCounter.toNat = (s.sequenceCounter.toNat + n) % 2 ^ 18 ∧
    (after n s).prevTimestamp.toNat =
      (s.prevTimestamp.toNat + (s.sequenceCounter.toNat + n) / 2 ^ 18) % 2 ^ 64

/-- R143: after a fresh call with seed `s` the next `0x3FFFF - s` stalled calls do not roll over and the one after those
does; that is at least `0x20000` calls. -/
def Obligations.HeadroomAfterASeed : Prop :=
  ∀ (s : State) (now w0 w1 : Word64) (n : Nat), s.Commanded → s.FreshCall now w0 w1 → StalledRun (advance s) n →
    (advance s).sequenceCounter = seedOf w0 ∧ 0x20000 ≤ 0x3FFFF - (seedOf w0).toNat ∧
    (n ≤ 0x3FFFF - (seedOf w0).toNat → (after n (advance s)).prevTimestamp = now ∧
      (after n (advance s)).sequenceCounter.toNat = (seedOf w0).toNat + n) ∧
    (n = 0x3FFFF - (seedOf w0).toNat + 1 → (after n (advance s)).prevTimestamp = now + 1 ∧
      (after n (advance s)).sequenceCounter = 0)

/-- R151: after a fresh call, while every call is stalled and no sample is below the fresh one, the emitted timestamp
exceeds the call's own sample by at most the number of rollovers, which over all seeds is at most
`floor((N + 0x1FFFE) / 2^18)` for `N` calls beginning with the fresh one, and it is never below the sample. The premise
on `now` keeps the run away from the wrap at `2^64`. -/
def Obligations.DriftIsBoundedByTheRollovers : Prop :=
  ∀ (s : State) (now w0 w1 : Word64) (n : Nat), s.Commanded → s.FreshCall now w0 w1 → StalledRun (advance s) n →
    now.toNat + ((seedOf w0).toNat + n) / 2 ^ 18 < 2 ^ 64 →
    (∀ (k : Nat) (x : Word64), k < n → (after k (advance s)).clockSample = some x → now.toNat ≤ x.toNat) →
    ∀ (k : Nat) (x : Word64), k < n → (after k (advance s)).clockSample = some x →
      x.toNat ≤ (after (k + 1) (advance s)).prevTimestamp.toNat ∧
      (after (k + 1) (advance s)).prevTimestamp.toNat ≤ x.toNat + ((seedOf w0).toNat + (k + 1)) / 2 ^ 18 ∧
      ((seedOf w0).toNat + (k + 1)) / 2 ^ 18 ≤ ((k + 2) + 0x1FFFE) / 2 ^ 18

/-! ### Invariants of every step -/

/-- R74, R105, R145: at reset no response is valid, so the invariant of `StepKeepsTheResponseMatched` holds. -/
def Obligations.ResetHasItsResponseMatched : Prop := State.reset.ResponseMatches

/-- R105, R145, R130, R95: every step keeps it true that the response on the ports carries the registers as they stand in
its upper 72 bits, the text of its own value if any, and one or two draws. The draw counts rest on the spec's decision D8
(log entry 8, DEDUCED) and the form of the text on log entry 10 (PRESUMED). -/
def Obligations.StepKeepsTheResponseMatched : Prop :=
  ∀ s t : State, s.ResponseMatches → step s = .next t → t.ResponseMatches

/-- R21, R22, R193: the registers change only by a reset or by a command that runs to its end, and outside a reset
`prev_timestamp` falls only by the wrap at `2^64`. -/
def Obligations.RegistersChangeOnlyByCommandOrReset : Prop :=
  (∀ s t : State, step s = .next t →
    t.prevTimestamp ≠ s.prevTimestamp ∨ t.sequenceCounter ≠ s.sequenceCounter →
    s.request = .reset ∨ s.Completes) ∧
  ∀ s t : State, step s = .next t → t.prevTimestamp.toNat < s.prevTimestamp.toNat →
    s.request = .reset ∨ s.Wraps

/-- R49, R8: a step of one instance neither reads nor writes anything of another, so steps of two instances commute. -/
def Obligations.InstancesAreIndependent : Prop :=
  ∀ (sys : System) (j k : Nat), j ≠ k →
    (sys.stepAt j).instances[k]? = sys.instances[k]? ∧
    ((sys.stepAt j).stepAt k) = ((sys.stepAt k).stepAt j) ∧
    (sys.stepAt j).instances.length = sys.instances.length

/-! ### The text -/

/-- R131: the text has exactly 32 characters, `0` to `9` and `a` to `f`; characters `2i` and `2i + 1` are the digits of
the high and the low nibble of `u[i]`. That the high nibble comes first is PRESUMED (log entry 10): R131 marks it as
general knowledge, not in its source (G2). -/
def Obligations.TextIsTheHexOfTheBytes : Prop :=
  (∀ u : Uuid, (hex32 u).length = 32 ∧ ∀ k, k < 16 →
    (hex32 u)[2 * k]? = some (hexDigit (byteOf u k >>> 4 |>.setWidth 4)) ∧
    (hex32 u)[2 * k + 1]? = some (hexDigit (byteOf u k &&& 0x0F#8 |>.setWidth 4))) ∧
  (List.range 16).map (fun n => hexDigit (BitVec.ofNat 4 n)) =
    ['0', '1', '2', '3', '4', '5', '6', '7', '8', '9', 'a', 'b', 'c', 'd', 'e', 'f']

/-- R132: character `j` of the text stands on `str[255 - 8j : 248 - 8j]` as its ASCII code, `0x30` to `0x39` or `0x61` to
`0x66`. The codes and their places on the port are PRESUMED (log entry 10): R132 marks the codes as general knowledge, not
in its source (G3), and the places are the spec's own decision D16. -/
def Obligations.TextStandsOnThePort : Prop :=
  ∀ (u : Uuid) (j : Nat), j < 32 →
    ∃ c, (hex32 u)[j]? = some c ∧ (strChar (strPort (hex32 u)) j).toNat = c.toNat ∧
      ((0x30 ≤ c.toNat ∧ c.toNat ≤ 0x39) ∨ (0x61 ≤ c.toNat ∧ c.toNat ≤ 0x66))

/-- R133 (a), (b): decoding the characters, two a byte, gives back the 16 bytes. That the decoder `unhex` takes the high
nibble first is PRESUMED, as in the text itself (log entry 10). -/
def Obligations.TextDecodesToTheBytes : Prop :=
  ∀ u : Uuid, (hex32 u).length = 32 ∧ unhex (hex32 u) = some ((List.range 16).map (byteOf u))

/-- R133 (c), R131, R132: the text of a GENS has `7` at character 12 and one of `8`, `9`, `a`, `b` at character 16, and
the port carries their codes there. Both the place of the high nibble and the codes on the port are PRESUMED (log entry
10). -/
def Obligations.TextShowsVersionAndVariant : Prop :=
  ∀ s : State, s.answered = true →
    ∃ t r x, exec .gens s = .next t ∧ t.response = some r ∧ r.str = some x ∧
      strChar x 12 = charCode '7' ∧ (hex32 r.uuid)[12]? = some '7' ∧
      ∃ c ∈ ['8', '9', 'a', 'b'], (hex32 r.uuid)[16]? = some c ∧ strChar x 16 = charCode c

/-- R133 (d): texts compare, character by character, as the values do. It rests on the high nibble coming first and on the
characters sorting as their ASCII codes do, both PRESUMED (log entry 10): R133 (d) marks the order of the codes as general
knowledge, not in its source (G3). -/
def Obligations.TextsSortAsTheValues : Prop :=
  ∀ a b : Uuid, hex32 a < hex32 b ↔ a.toNat < b.toNat
end

