-- ==== Sys2Proof/Laws/State.lean ====
section
/-! SUPPORT. One lemma per field per update of the state and of a call. -/

namespace Sys2Proof.Machine

variable (s : State) (c : Call) (textOf : Uuid → Option Text)

@[simp] theorem State.idleStep_prevTimestamp : s.idleStep.prevTimestamp = s.prevTimestamp := rfl
@[simp] theorem State.idleStep_sequenceCounter : s.idleStep.sequenceCounter = s.sequenceCounter := rfl
@[simp] theorem State.idleStep_control : s.idleStep.control = s.control := rfl
@[simp] theorem State.idleStep_inputs : s.idleStep.inputs = s.inputs.tail := rfl
@[simp] theorem State.idleStep_response : s.idleStep.response = none := rfl

@[simp] theorem State.resetStep_prevTimestamp : s.resetStep.prevTimestamp = 0 := rfl
@[simp] theorem State.resetStep_sequenceCounter : s.resetStep.sequenceCounter = 0 := rfl
@[simp] theorem State.resetStep_control : s.resetStep.control = .idle := rfl
@[simp] theorem State.resetStep_inputs : s.resetStep.inputs = s.inputs.tail := rfl
@[simp] theorem State.resetStep_response : s.resetStep.response = none := rfl

@[simp] theorem State.waitStep_prevTimestamp : s.waitStep.prevTimestamp = s.prevTimestamp := rfl
@[simp] theorem State.waitStep_sequenceCounter : s.waitStep.sequenceCounter = s.sequenceCounter := rfl
@[simp] theorem State.waitStep_control : s.waitStep.control = s.control := rfl
@[simp] theorem State.waitStep_inputs : s.waitStep.inputs = s.inputs := rfl
@[simp] theorem State.waitStep_response : s.waitStep.response = none := rfl

@[simp] theorem State.finish_prevTimestamp : (s.finish c textOf).prevTimestamp = c.prevTimestamp := rfl
@[simp] theorem State.finish_sequenceCounter : (s.finish c textOf).sequenceCounter = c.sequenceCounter := rfl
@[simp] theorem State.finish_control : (s.finish c textOf).control = .idle := rfl
@[simp] theorem State.finish_inputs : (s.finish c textOf).inputs = s.inputs.tail := rfl
@[simp] theorem State.finish_response : (s.finish c textOf).response =
    some { uuid := c.out.uuid, str := textOf c.out.uuid, rngTake := c.rngTaken } := rfl

section
variable (pt : Word64) (sc : Counter) (tail : BitVec 56) (draws : Nat)
@[simp] theorem State.emitted_prevTimestamp : (s.emitted pt sc tail textOf draws).prevTimestamp = pt := rfl
@[simp] theorem State.emitted_sequenceCounter : (s.emitted pt sc tail textOf draws).sequenceCounter = sc := rfl
@[simp] theorem State.emitted_control : (s.emitted pt sc tail textOf draws).control = .idle := rfl
@[simp] theorem State.emitted_inputs : (s.emitted pt sc tail textOf draws).inputs = s.inputs.tail := rfl
@[simp] theorem State.emitted_response : (s.emitted pt sc tail textOf draws).response =
    some { uuid := layout pt sc tail, str := textOf (layout pt sc tail), rngTake := draws } := rfl
end

section
variable (op : BitVec 1)
@[simp] theorem State.withCommand_prevTimestamp : (s.withCommand op).prevTimestamp = s.prevTimestamp := rfl
@[simp] theorem State.withCommand_sequenceCounter : (s.withCommand op).sequenceCounter = s.sequenceCounter := rfl
@[simp] theorem State.withCommand_control : (s.withCommand op).control = s.control := rfl
@[simp] theorem State.withCommand_response : (s.withCommand op).response = s.response := rfl
end

section
variable (a : Nat) (v : Byte)
@[simp] theorem Call.put_prevTimestamp : (c.put a v).prevTimestamp = c.prevTimestamp := rfl
@[simp] theorem Call.put_sequenceCounter : (c.put a v).sequenceCounter = c.sequenceCounter := rfl
@[simp] theorem Call.put_out : (c.put a v).out = c.out.write a v := rfl
@[simp] theorem Call.put_rngLeft : (c.put a v).rngLeft = c.rngLeft := rfl
@[simp] theorem Call.put_rngTaken : (c.put a v).rngTaken = c.rngTaken := rfl
end

/-- There is one control state (R23), so whatever holds of `Idle` holds of the control state. -/
@[simp] theorem State.control_idle : s.control = .idle := by
  cases s.control
  rfl

end Sys2Proof.Machine
end

