-- ==== Sys2Proof/Laws/Memory.lean ====
section
/-! SUPPORT. The laws of the output buffer: what a write does to a read, and that it keeps the canonical form. -/

namespace Sys2Proof.Machine

theorem Memory.written_write_same (m : Memory) (a : Nat) (v : Byte) : (m.write a v).written a = some v := by
  induction m with
  | nil => simp [Memory.write, Memory.written]
  | cons cell rest ih =>
    obtain ⟨b, x⟩ := cell
    simp only [Memory.write]
    split
    · simp [Memory.written]
    · split
      · simp [Memory.written]
      · rename_i _ hne
        simp [Memory.written, hne, ih]

theorem Memory.written_write_other (m : Memory) {a a' : Nat} (v : Byte) (h : a' ≠ a) :
    (m.write a v).written a' = m.written a' := by
  induction m with
  | nil => simp [Memory.write, Memory.written, h]
  | cons cell rest ih =>
    obtain ⟨b, x⟩ := cell
    simp only [Memory.write]
    split
    · simp [Memory.written, h]
    · split
      · rename_i _ heq
        subst heq
        simp [Memory.written, h]
      · simp [Memory.written, ih]

@[simp] theorem Memory.read_write_same (m : Memory) (a : Nat) (v : Byte) : (m.write a v).read a = v := by
  simp [Memory.read, Memory.written_write_same]

@[simp] theorem Memory.read_write_other (m : Memory) {a a' : Nat} (v : Byte) (h : a' ≠ a) :
    (m.write a v).read a' = m.read a' := by
  simp [Memory.read, Memory.written_write_other m v h]

theorem Memory.wfFrom_write (m : Memory) (low a : Nat) (v : Byte) (hlow : low ≤ a) (ha : a < Config.outBytes)
    (h : m.wfFrom low = true) : (m.write a v).wfFrom low = true := by
  induction m generalizing low with
  | nil => simp [Memory.write, Memory.wfFrom, hlow, ha]
  | cons cell rest ih =>
    obtain ⟨b, x⟩ := cell
    simp only [Memory.wfFrom, Bool.and_eq_true, decide_eq_true_eq] at h
    obtain ⟨⟨hb, hb16⟩, hrest⟩ := h
    simp only [Memory.write]
    split
    · rename_i hlt
      simp [Memory.wfFrom, hlow, ha, hb16, hrest, Nat.succ_le_of_lt hlt]
    · split
      · rename_i _ heq
        subst heq
        simp [Memory.wfFrom, hlow, ha, hrest]
      · rename_i hge hne
        simp [Memory.wfFrom, hb, hb16, ih (b + 1) (by omega) hrest]

/-- Every write to one of the 16 bytes keeps the buffer's canonical form. -/
theorem Memory.wf_write {m : Memory} (h : m.wf = true) {a : Nat} (ha : a < Config.outBytes) (v : Byte) :
    (m.write a v).wf = true :=
  Memory.wfFrom_write m 0 a v (Nat.zero_le a) ha h

/-- The buffer at the start of a call is in canonical form. -/
theorem Call.start_wf (s : State) : (Call.start s).out.wf = true := rfl

@[simp] theorem Call.get_put_same (c : Call) (a : Nat) (v : Byte) : (c.put a v).get a = v := by
  simp [Call.get]

@[simp] theorem Call.get_put_other (c : Call) {a a' : Nat} (v : Byte) (h : a' ≠ a) :
    (c.put a v).get a' = c.get a' := by
  simp [Call.get, h]

end Sys2Proof.Machine
end

