-- ==== Sys2Proof/Laws/Fields.lean ====
section
/-! SUPPORT. What the field functions of Machine/Operands.lean give, bit by bit. -/

namespace Sys2Proof.Machine

theorem laneByte_getLsbD (w : Word64) (k i : Nat) :
    (laneByte w k).getLsbD i = (decide (i < 8) && w.getLsbD (8 * k + i)) := by
  rcases Nat.lt_or_ge i 8 with h | h
  · interval_cases i <;> simp [laneByte]
  · simp [laneByte, Nat.not_lt.2 h]

theorem timestampByte_getLsbD (t : Word64) (j i : Nat) :
    (timestampByte t j).getLsbD i = (decide (i < 8) && t.getLsbD (40 - 8 * j + i)) := by
  rcases Nat.lt_or_ge i 8 with h | h
  · interval_cases i <;> simp [timestampByte]
  · simp [timestampByte, Nat.not_lt.2 h]

theorem counterHigh_getLsbD (c : Counter) (i : Nat) :
    (counterHigh c).getLsbD i = (decide (i < 8) && c.getLsbD (14 + i)) := by
  simp [counterHigh]

theorem counterMid_getLsbD (c : Counter) (i : Nat) :
    (counterMid c).getLsbD i = (decide (i < 8) && c.getLsbD (6 + i)) := by
  rcases Nat.lt_or_ge i 8 with h | h
  · interval_cases i <;> simp [counterMid]
  · simp [counterMid, Nat.not_lt.2 h]

theorem counterLow_getLsbD (c : Counter) (i : Nat) :
    (counterLow c).getLsbD i = (decide (i < 6) && c.getLsbD i) := by
  rcases Nat.lt_or_ge i 8 with h | h
  · interval_cases i <;> simp [counterLow]
  · have : ¬ i < 6 := by omega
    simp [counterLow, Nat.not_lt.2 h, this]

theorem clearGuard_getLsbD (b : Byte) (i : Nat) :
    (clearGuard b).getLsbD i = (decide (i ≠ 3) && b.getLsbD i) := by
  rcases Nat.lt_or_ge i 8 with h | h
  · interval_cases i <;> simp [clearGuard, Config.guardMask]
  · simp [clearGuard, h]

theorem withVersion_getLsbD (b : Byte) (i : Nat) :
    (withVersion b).getLsbD i = if i < 4 then b.getLsbD i else decide (i < 7) := by
  rcases Nat.lt_or_ge i 8 with h | h
  · interval_cases i <;> simp [withVersion, Config.verBits]
  · have h4 : ¬ i < 4 := by omega
    have h7 : ¬ i < 7 := by omega
    simp [withVersion, h, h4, h7]

theorem withVariant_getLsbD (b : Byte) (i : Nat) :
    (withVariant b).getLsbD i = if i < 6 then b.getLsbD i else decide (i = 7) := by
  rcases Nat.lt_or_ge i 8 with h | h
  · interval_cases i <;> simp [withVariant, Config.varBits]
  · have h6 : ¬ i < 6 := by omega
    have h7 : ¬ i = 7 := by omega
    simp [withVariant, h, h6, h7]

/-- The three pieces of the counter field occupy bits 17 to 14, 13 to 6 and 5 to 0 (R68, R109). -/
theorem gatherCounter_getLsbD (b6 b7 b8 : Byte) (i : Nat) :
    (gatherCounter b6 b7 b8).getLsbD i =
      if i < 6 then b8.getLsbD i else if i < 14 then b7.getLsbD (i - 6)
      else decide (i < 18) && b6.getLsbD (i - 14) := by
  rcases Nat.lt_or_ge i 18 with h | h
  · interval_cases i <;> simp [gatherCounter]
  · have h6 : ¬ i < 6 := by omega
    have h14 : ¬ i < 14 := by omega
    simp [gatherCounter, h, h6, h14, Nat.not_lt.2 h]

end Sys2Proof.Machine
end

