-- ==== Sys2Proof/Laws/Layout.lean ====
section
/-! SUPPORT. The 128-bit layout bit by bit, and what reading it back gives (`30_encoding.md` R63, R74). -/

namespace Sys2Proof.Machine

theorem layout_getLsbD (pt : Word64) (sc : Counter) (tail : BitVec 56) (i : Nat) :
    (layout pt sc tail).getLsbD i = if i < 56 then tail.getLsbD i else (resultKey pt sc).getLsbD (i - 56) := by
  simp only [layout, BitVec.getLsbD_cast, BitVec.getLsbD_append]

theorem resultKey_getLsbD (pt : Word64) (sc : Counter) (i : Nat) :
    (resultKey pt sc).getLsbD i =
      if i < 6 then sc.getLsbD i else if i < 8 then (2#2).getLsbD (i - 6) else if i < 20 then sc.getLsbD (i - 2)
      else if i < 24 then (7#4).getLsbD (i - 20) else decide (i < 72) && pt.getLsbD (i - 24) := by
  simp only [resultKey, BitVec.getLsbD_cast, BitVec.getLsbD_append, BitVec.getLsbD_extractLsb', BitVec.getLsbD_setWidth]
  split_ifs <;> first | omega | skip
  · simp [*]
  · rfl
  · have h : i - 6 - 2 < 12 := by omega
    simp [h, show 6 + (i - 6 - 2) = i - 2 by omega]
  · rw [show i - 6 - 2 - 12 = i - 20 by omega]
  · rw [show i - 6 - 2 - 12 - 4 = i - 24 by omega]
    simp [show i - 24 < 48 ↔ i < 72 by omega]

@[simp] theorem keyOf_layout (pt : Word64) (sc : Counter) (tail : BitVec 56) :
    keyOf (layout pt sc tail) = resultKey pt sc := by
  apply BitVec.eq_of_getLsbD_eq
  intro i hi
  simp [keyOf, layout_getLsbD, hi]

@[simp] theorem tailOf_layout (pt : Word64) (sc : Counter) (tail : BitVec 56) :
    tailOf (layout pt sc tail) = tail := by
  apply BitVec.eq_of_getLsbD_eq
  intro i hi
  simp [tailOf, layout_getLsbD, hi]

@[simp] theorem tsOf_layout (pt : Word64) (sc : Counter) (tail : BitVec 56) :
    tsOf (layout pt sc tail) = pt.setWidth 48 := by
  apply BitVec.eq_of_getLsbD_eq
  intro i hi
  simp only [tsOf, BitVec.getLsbD_extractLsb', layout_getLsbD, resultKey_getLsbD]
  interval_cases i <;> simp

@[simp] theorem verOf_layout (pt : Word64) (sc : Counter) (tail : BitVec 56) :
    verOf (layout pt sc tail) = 0b0111#4 := by
  apply BitVec.eq_of_getLsbD_eq
  intro i hi
  simp only [verOf, BitVec.getLsbD_extractLsb', layout_getLsbD, resultKey_getLsbD]
  interval_cases i <;> simp

@[simp] theorem varOf_layout (pt : Word64) (sc : Counter) (tail : BitVec 56) :
    varOf (layout pt sc tail) = 0b10#2 := by
  apply BitVec.eq_of_getLsbD_eq
  intro i hi
  simp only [varOf, BitVec.getLsbD_extractLsb', layout_getLsbD, resultKey_getLsbD]
  interval_cases i <;> simp

@[simp] theorem ctrOf_layout (pt : Word64) (sc : Counter) (tail : BitVec 56) :
    ctrOf (layout pt sc tail) = sc := by
  apply BitVec.eq_of_getLsbD_eq
  intro i hi
  simp only [ctrOf, BitVec.getLsbD_cast, BitVec.getLsbD_append, BitVec.getLsbD_extractLsb', layout_getLsbD,
    resultKey_getLsbD]
  interval_cases i <;> simp

/-- The value of the result key: timestamp, version, counter, variant, as one number. -/
theorem resultKey_toNat (pt : Word64) (sc : Counter) :
    (resultKey pt sc).toNat = pt.toNat % 2 ^ 48 * 2 ^ 24 + 7 * 2 ^ 20 + sc.toNat / 2 ^ 6 * 2 ^ 8 + 2 * 2 ^ 6
      + sc.toNat % 2 ^ 6 := by
  have hsc : sc.toNat / 2 ^ 6 < 2 ^ 12 := by
    have := sc.isLt
    omega
  simp only [resultKey, BitVec.toNat_cast, BitVec.toNat_append, BitVec.toNat_setWidth, BitVec.extractLsb'_toNat,
    BitVec.toNat_ofNat, Nat.shiftRight_eq_div_pow]
  rw [← Nat.shiftLeft_add_eq_or_of_lt (by omega), ← Nat.shiftLeft_add_eq_or_of_lt (by omega),
    ← Nat.shiftLeft_add_eq_or_of_lt (by omega), ← Nat.shiftLeft_add_eq_or_of_lt (by omega)]
  simp only [Nat.shiftLeft_eq]
  rw [Nat.mod_eq_of_lt hsc]
  omega

theorem layout_toNat (pt : Word64) (sc : Counter) (tail : BitVec 56) :
    (layout pt sc tail).toNat = (resultKey pt sc).toNat * 2 ^ 56 + tail.toNat := by
  simp only [layout, BitVec.toNat_cast, BitVec.toNat_append]
  rw [← Nat.shiftLeft_add_eq_or_of_lt (by omega), Nat.shiftLeft_eq]

theorem keyOf_toNat (u : Uuid) : (keyOf u).toNat = u.toNat / 2 ^ 56 := by
  have := u.isLt
  simp only [keyOf, BitVec.extractLsb'_toNat, Nat.shiftRight_eq_div_pow]
  omega

end Sys2Proof.Machine
end

