-- ==== Sys2Proof/Laws/Generate.lean ====
section
/-! SUPPORT. What one call does, said once per unit and once for the whole: callers cite these and do not unfold the
units (`40_generate.md` R90 to R105). -/

namespace Sys2Proof.Machine

theorem fresh_iff (now prev : Word64) : fresh now prev = true ↔ prev.toNat < now.toNat := by
  simp [fresh, BitVec.ult]

theorem stalled_iff (now prev : Word64) : fresh now prev = false ↔ now.toNat ≤ prev.toNat := by
  simp [fresh, BitVec.ult]

/-- The rollover is taken exactly when the counter stands at its top (R98). -/
theorem rollsOver_iff (c : Counter) : rollsOver (incremented c) = true ↔ c = Config.ctrMax := by
  have := c.isLt
  simp [rollsOver, incremented, Config.ctrMax, BitVec.ult, BitVec.toNat_add, ← BitVec.toNat_inj]
  omega

/-- Below its top the counter grows by one (R98). -/
theorem incremented_setWidth (c : Counter) : (incremented c).setWidth 18 = c + 1#18 := by
  have := c.isLt
  apply BitVec.eq_of_toNat_eq
  simp [incremented, BitVec.toNat_add]

/-- Bit `i` of the value is bit `i mod 8` of byte `15 - i / 8` (R11). -/
theorem Memory.uuid_getLsbD (m : Memory) {i : Nat} (hi : i < 128) :
    m.uuid.getLsbD i = (m.read (15 - i / 8)).getLsbD (i % 8) := by
  simp only [Memory.uuid, BitVec.getLsbD_cast, BitVec.getLsbD_append]
  interval_cases i <;> rfl

/-- The buffer a fresh call returns, as its 16 cells in the order of their addresses (R71). -/
def freshOut (now w0 w1 : Word64) : Memory :=
  [(0, timestampByte now 0), (1, timestampByte now 1), (2, timestampByte now 2), (3, timestampByte now 3),
   (4, timestampByte now 4), (5, timestampByte now 5), (6, withVersion (clearGuard (laneByte w0 0))),
   (7, laneByte w0 1), (8, withVariant (laneByte w0 2)), (9, laneByte w0 3), (10, laneByte w0 4), (11, laneByte w0 5),
   (12, laneByte w0 6), (13, laneByte w0 7), (14, laneByte w1 0), (15, laneByte w1 1)]

/-- The buffer a stalled call returns, from the registers after the call (R71). -/
def stalledOut (pt : Word64) (sc : Counter) (w0 : Word64) : Memory :=
  [(0, timestampByte pt 0), (1, timestampByte pt 1), (2, timestampByte pt 2), (3, timestampByte pt 3),
   (4, timestampByte pt 4), (5, timestampByte pt 5), (6, withVersion (counterHigh sc)),
   (7, counterMid sc), (8, withVariant (counterLow sc)), (9, laneByte w0 1), (10, laneByte w0 2), (11, laneByte w0 3),
   (12, laneByte w0 4), (13, laneByte w0 5), (14, laneByte w0 6), (15, laneByte w0 7)]

theorem gather_freshBytes (w0 : Word64) :
    gatherCounter (clearGuard (laneByte w0 0)) (laneByte w0 1) (laneByte w0 2) = seedOf w0 := by
  apply BitVec.eq_of_getLsbD_eq
  intro i hi
  simp only [gatherCounter_getLsbD, clearGuard_getLsbD, laneByte_getLsbD, seedOf, BitVec.getLsbD_cast,
    BitVec.getLsbD_append, BitVec.getLsbD_extractLsb']
  interval_cases i <;> simp

theorem freshOut_uuid (now w0 w1 : Word64) :
    (freshOut now w0 w1).uuid = layout now (seedOf w0) (freshTail w0 w1) := by
  apply BitVec.eq_of_getLsbD_eq
  intro i hi
  rw [layout_getLsbD, resultKey_getLsbD]
  simp only [freshOut, Memory.uuid_getLsbD _ hi, seedOf, freshTail, BitVec.getLsbD_cast,
    BitVec.getLsbD_append, BitVec.getLsbD_extractLsb']
  interval_cases i <;>
    simp [Memory.read, Memory.written, laneByte, timestampByte, withVersion, withVariant, clearGuard, Config.verBits,
      Config.varBits, Config.guardMask]

theorem stalledOut_uuid (pt : Word64) (sc : Counter) (w0 : Word64) :
    (stalledOut pt sc w0).uuid = layout pt sc (stalledTail w0) := by
  apply BitVec.eq_of_getLsbD_eq
  intro i hi
  rw [layout_getLsbD, resultKey_getLsbD]
  simp only [stalledOut, Memory.uuid_getLsbD _ hi, stalledTail, BitVec.getLsbD_cast, BitVec.getLsbD_append,
    BitVec.getLsbD_extractLsb']
  interval_cases i <;>
    simp [Memory.read, Memory.written, laneByte, timestampByte, withVersion, withVariant, counterHigh, counterMid,
      counterLow, Config.verBits, Config.varBits]

theorem freshUnit_eq (now : Word64) (pt : Word64) (sc : Counter) (w0 w1 : Word64) (rest : List Word64) :
    freshUnit now { prevTimestamp := pt, sequenceCounter := sc, out := [], rngLeft := w0 :: w1 :: rest, rngTaken := 0 } =
      some (now, { prevTimestamp := now, sequenceCounter := seedOf w0,
                   out := [(6, clearGuard (laneByte w0 0)), (7, laneByte w0 1), (8, laneByte w0 2), (9, laneByte w0 3),
                     (10, laneByte w0 4), (11, laneByte w0 5), (12, laneByte w0 6), (13, laneByte w0 7),
                     (14, laneByte w1 0), (15, laneByte w1 1)],
                   rngLeft := rest, rngTaken := 2 }) := by
  rw [← gather_freshBytes]
  rfl

theorem fillCounter_eq (pt : Word64) (sc : Counter) (w0 : Word64) (rest : List Word64) :
    fillCounter { prevTimestamp := pt, sequenceCounter := sc, out := [], rngLeft := w0 :: rest, rngTaken := 0 } =
      some { prevTimestamp := pt, sequenceCounter := sc,
             out := [(6, counterHigh sc), (7, counterMid sc), (8, counterLow sc), (9, laneByte w0 1),
               (10, laneByte w0 2), (11, laneByte w0 3), (12, laneByte w0 4), (13, laneByte w0 5),
               (14, laneByte w0 6), (15, laneByte w0 7)],
             rngLeft := rest, rngTaken := 1 } := rfl

/-- The registers after the first half of a stalled call (R98, R99). -/
theorem countUp_eq (c : Call) :
    countUp c =
      if c.sequenceCounter = Config.ctrMax then { c with sequenceCounter := 0, prevTimestamp := c.prevTimestamp + 1 }
      else { c with sequenceCounter := c.sequenceCounter + 1 } := by
  unfold countUp
  by_cases h : c.sequenceCounter = Config.ctrMax
  · rw [if_pos ((rollsOver_iff _).2 h), if_pos h]
  · rw [if_neg (fun hr => h ((rollsOver_iff _).1 hr)), if_neg h, incremented_setWidth]
    rfl

/-- A whole fresh call (R105, first line). -/
theorem generate_fresh {s : State} {now w0 w1 : Word64} {rest : List Word64}
    (hw : s.rngAnswers = w0 :: w1 :: rest) (hf : s.prevTimestamp.toNat < now.toNat) :
    generate now (Call.start s) =
      some { prevTimestamp := now, sequenceCounter := seedOf w0, out := freshOut now w0 w1,
             rngLeft := rest, rngTaken := 2 } := by
  have hfresh : fresh now s.prevTimestamp = true := (fresh_iff _ _).2 hf
  simp only [generate, Call.start, hfresh, if_true, hw, freshUnit_eq]
  rfl

/-- A whole stalled call (R105, second and third line): `countUp` gives the registers. -/
theorem generate_stalled {s : State} {now w0 : Word64} {rest : List Word64}
    (hw : s.rngAnswers = w0 :: rest) (hf : now.toNat ≤ s.prevTimestamp.toNat) :
    generate now (Call.start s) =
      some { prevTimestamp := (countUp (Call.start s)).prevTimestamp
             sequenceCounter := (countUp (Call.start s)).sequenceCounter
             out := stalledOut (countUp (Call.start s)).prevTimestamp (countUp (Call.start s)).sequenceCounter w0
             rngLeft := rest, rngTaken := 1 } := by
  have hstalled : fresh now s.prevTimestamp = false := (stalled_iff _ _).2 hf
  obtain ⟨pt, sc, hcount⟩ : ∃ pt sc, countUp (Call.start s) =
      { prevTimestamp := pt, sequenceCounter := sc, out := [], rngLeft := w0 :: rest, rngTaken := 0 } := by
    rw [countUp_eq]
    split <;> simp [Call.start, hw]
  have hprev : (Call.start s).prevTimestamp = s.prevTimestamp := rfl
  simp only [generate, hprev, hstalled, Bool.false_eq_true, if_false, stalledUnit]
  rw [hcount, fillCounter_eq]
  rfl

/-- A fresh call that misses a random word has no end (R162). -/
theorem generate_fresh_short {s : State} {now : Word64} (hw : s.rngAnswers.length < 2)
    (hf : s.prevTimestamp.toNat < now.toNat) : generate now (Call.start s) = none := by
  have hfresh : fresh now s.prevTimestamp = true := (fresh_iff _ _).2 hf
  match h : s.rngAnswers, hw with
  | [], _ => simp only [generate, Call.start, hfresh, if_true, h]; rfl
  | [w0], _ => simp only [generate, Call.start, hfresh, if_true, h]; rfl

/-- A stalled call that misses its random word has no end (R162). -/
theorem generate_stalled_short {s : State} {now : Word64} (hw : s.rngAnswers = [])
    (hf : now.toNat ≤ s.prevTimestamp.toNat) : generate now (Call.start s) = none := by
  have hstalled : fresh now s.prevTimestamp = false := (stalled_iff _ _).2 hf
  have hprev : (Call.start s).prevTimestamp = s.prevTimestamp := rfl
  simp only [generate, hprev, hstalled, Bool.false_eq_true, if_false, stalledUnit]
  rw [countUp_eq]
  split <;> simp only [Call.start, hw] <;> rfl

end Sys2Proof.Machine
end

