-- ==== Sys2Proof/Laws/PerInstr.lean ====
section
/-! SUPPORT. The family RoundTrip: what holds of every command as syntax, one lemma per constructor. -/

namespace Sys2Proof.Laws.RoundTrip

/-- The command is well formed, its command word decodes to it, and so do its bytes, whatever follows them. -/
def Statement (i : Instr) : Prop :=
  i.wellFormed = true ∧ decode (encode i) = i ∧ ∀ rest, decodeBytes (encodeBytes i ++ rest) = .ok (i, rest)

theorem gen : Statement .gen := ⟨rfl, rfl, fun _ => rfl⟩

theorem gens : Statement .gens := ⟨rfl, rfl, fun _ => rfl⟩

end Sys2Proof.Laws.RoundTrip
end

