-- ==== Sys2Proof/Laws/Step.lean ====
section
/-! SUPPORT. What a command and a step can do, said once: every later proof cites `complete_cases` and `step_cases`. -/

namespace Sys2Proof.Machine

theorem take_two_iff {α : Type} {l : List α} {a b : α} : l.take 2 = [a, b] ↔ ∃ rest, l = a :: b :: rest := by
  match l with
  | [] => simp
  | [x] => simp
  | x :: y :: rest => simp

theorem take_one_iff {α : Type} {l : List α} {a : α} : l.take 1 = [a] ↔ ∃ rest, l = a :: rest := by
  match l with
  | [] => simp
  | x :: rest => simp

/-- What a command does to the state, whatever text it returns: it waits because an answer is missing, or it is fresh,
or it is stalled and counts, or it is stalled and rolls over (R92, R98, R105, R162). -/
theorem complete_cases (s : State) (textOf : Uuid → Option Text) :
    (s.answered = false ∧ s.complete (runGenerate s) textOf = s.waitStep) ∨
    (s.answered = true ∧ ∃ now w0 w1, s.FreshCall now w0 w1 ∧
      s.complete (runGenerate s) textOf = s.emitted now (seedOf w0) (freshTail w0 w1) textOf 2) ∨
    (s.answered = true ∧ s.sequenceCounter ≠ Config.ctrMax ∧ ∃ now w0, s.StalledCall now w0 ∧
      s.complete (runGenerate s) textOf =
        s.emitted s.prevTimestamp (s.sequenceCounter + 1) (stalledTail w0) textOf 1) ∨
    (s.answered = true ∧ s.sequenceCounter = Config.ctrMax ∧ ∃ now w0, s.StalledCall now w0 ∧
      s.complete (runGenerate s) textOf = s.emitted (s.prevTimestamp + 1) 0 (stalledTail w0) textOf 1) := by
  rcases hc : s.clockSample with _ | now
  · left
    simp [State.answered, runGenerate, hc, State.complete]
  rcases Nat.lt_or_ge s.prevTimestamp.toNat now.toNat with hf | hf
  · have hfresh : fresh now s.prevTimestamp = true := (fresh_iff _ _).2 hf
    match hw : s.rngAnswers with
    | [] =>
      left
      have hg := generate_fresh_short (s := s) (now := now) (by simp [hw]) hf
      simp [State.answered, runGenerate, hc, State.complete, hg, wordsNeeded, hfresh, hw]
    | [_] =>
      left
      have hg := generate_fresh_short (s := s) (now := now) (by simp [hw]) hf
      simp [State.answered, runGenerate, hc, State.complete, hg, wordsNeeded, hfresh, hw]
    | w0 :: w1 :: rest =>
      right; left
      refine ⟨by simp [State.answered, hc, wordsNeeded, hfresh, hw], now, w0, w1, ⟨hc, by simp [hw], hf⟩, ?_⟩
      simp only [runGenerate, hc, Option.bind_some, generate_fresh hw hf, State.complete, State.finish, State.emitted,
        freshOut_uuid]
  · have hstalled : fresh now s.prevTimestamp = false := (stalled_iff _ _).2 hf
    match hw : s.rngAnswers with
    | [] =>
      left
      have hg := generate_stalled_short (s := s) (now := now) hw hf
      simp [State.answered, runGenerate, hc, State.complete, hg, wordsNeeded, hstalled, hw]
    | w0 :: rest =>
      right; right
      have hans : s.answered = true := by simp [State.answered, hc, wordsNeeded, hstalled, hw]
      have hcall : s.StalledCall now w0 := ⟨hc, by simp [hw], hf⟩
      by_cases hsc : s.sequenceCounter = Config.ctrMax
      · right
        refine ⟨hans, hsc, now, w0, hcall, ?_⟩
        simp only [runGenerate, hc, Option.bind_some, generate_stalled hw hf, State.complete, State.finish,
          State.emitted, stalledOut_uuid, countUp_eq]
        simp [Call.start, hsc]
      · left
        refine ⟨hans, hsc, now, w0, hcall, ?_⟩
        simp only [runGenerate, hc, Option.bind_some, generate_stalled hw hf, State.complete, State.finish,
          State.emitted, stalledOut_uuid, countUp_eq]
        simp [Call.start, hsc]

/-- Both commands are one call, and differ only in the text (R130). -/
theorem exec_eq (i : Instr) (s : State) : exec i s = .next (s.complete (runGenerate s) (textOf i)) := by
  cases i <;> rfl

/-- What a step does, by what the front of the inputs asks. -/
theorem step_cases (s : State) :
    (s.request = .nothing ∧ step s = .next s.idleStep) ∨
    (s.request = .reset ∧ step s = .next s.resetStep) ∨
    (∃ op, s.request = .command op ∧ step s = .next (s.complete (runGenerate s) (textOf (decode op)))) := by
  rcases h : s.request with _ | _ | op
  · exact .inl ⟨rfl, by simp [step, h]⟩
  · exact .inr (.inl ⟨rfl, by simp [step, h]⟩)
  · exact .inr (.inr ⟨op, rfl, by simp [step, h, exec_eq]⟩)

theorem advance_eq {s t : State} (h : step s = .next t) : advance s = t := by
  simp [advance, h]

end Sys2Proof.Machine
end

