-- ==== Sys2Proof/Tests/Slice0.lean ====
section
/-! SUPPORT. Tests: command words written out from `30_encoding.md` R61, well-formedness, one step of each command on the
vectors of `95_test_vectors.md`, and a witness for the hypotheses of every statement that has some. -/

namespace Sys2Proof.Tests

open Sys2Proof.Machine

/-! ### Decoding and well-formedness -/

/-- R61: `cmd_op = 0`, written out. -/
theorem test_decode_gen : decode 0b0#1 = .gen := by decide

/-- R61: `cmd_op = 1`, written out. -/
theorem test_decode_gens : decode 0b1#1 = .gens := by decide

/-- The table's rows, one bit in a byte. -/
theorem test_decodeTableWord : decodeTableWord 8 0 = some .gen ∧ decodeTableWord 8 1 = some .gens := by decide

/-- R60: a word with a bit outside `cmd_op` is no command word. -/
theorem test_decodeTableWord_rejects : decodeTableWord 8 2 = none ∧ decodeTableWord 8 0x81 = none := by decide

theorem test_decodeBytes_rejects_by_name :
    decodeBytes [] = .error .empty ∧ decodeBytes [0x80#8] = .error (.bitsOutsideCmdOp 0x80#8) := by decide

/-- R60: the check of the width refuses a word of two bits. -/
theorem test_wellFormed_width : CommandWord.wellFormed ⟨2, 1⟩ = false ∧ CommandWord.hasCommandWidth ⟨2, 1⟩ = false := by
  decide

/-- R61: the check of the value refuses a value that one bit cannot hold. -/
theorem test_wellFormed_value : CommandWord.wellFormed ⟨1, 2⟩ = false ∧ CommandWord.fits ⟨1, 2⟩ = false := by decide

theorem test_wellFormed_accepts :
    CommandWord.wellFormed ⟨1, 0⟩ = true ∧ CommandWord.wellFormed ⟨1, 1⟩ = true ∧ Instr.gen.wellFormed = true := by decide

/-! ### Small states -/

/-- A command transaction: `GEN now=<n> rng=<words>` (R77). -/
def cmd (op : BitVec 1) (now : Word64) (rng : List Word64) : PortInputs :=
  { rst := false, cmdValid := true, cmdOp := op, nowMs := some now, rngWords := rng }

/-- `.state pt=<v> sc=<v>` (R77) with a sequence of transactions. -/
def st (pt : Word64) (sc : Counter) (inputs : List PortInputs) : State :=
  { State.reset with prevTimestamp := pt, sequenceCounter := sc, inputs := inputs }

/-- The registers and the value after one step. -/
def regsAndValue (s : State) : Word64 × Counter × Option Uuid :=
  match step s with
  | .next t => (t.prevTimestamp, t.sequenceCounter, t.response.map (·.uuid))
  | .fault _ => (0, 0, none)
  | .refused _ => (0, 0, none)

/-- The text on the port after one step, character by character from the first. -/
def portText (s : State) (n : Nat) : List Byte :=
  match step s with
  | .next t => (t.response.bind (·.str)).elim [] fun x => (List.range n).map (strChar x)
  | .fault _ => []
  | .refused _ => []

/-! ### One step of each command -/

/-- V1: the worked example of R90. -/
theorem test_gen_fresh :
    regsAndValue (st 0 0 [cmd 0 0x1924F1A3B00 [0x0123456789ABCDEF, 0xFEDCBA9876543210]]) =
      (0x1924F1A3B00, 0x1F36B, some 0x01924f1a3b0077cdab89674523011032) := by decide

/-- Rollover: `95_test_vectors.md`, rollover/borrow unit, second row. -/
theorem test_gen_rollover :
    regsAndValue (st 0x1924F1A3B00 0x3FFFF [cmd 0 0x1924F1A3B00 [0x18171615141312F1]]) =
      (0x1924F1A3B01, 0, some 0x01924f1a3b0170008012131415161718) := by decide

/-- GENS, second row of its table: stalled. -/
theorem test_gens_stalled :
    regsAndValue (st 0x1924F1A3B00 0x1F36B [cmd 1 0x1924F1A3B00 [0x1122334455667788]]) =
      (0x1924F1A3B00, 0x1F36C, some 0x01924f1a3b0077cdac77665544332211) := by decide

/-- S5, first half of the text on the port: `01924f1a3b0077ff` in ASCII (R132). -/
theorem test_gens_text :
    portText (st 0 0 [cmd 1 0x1924F1A3B00 [0xFFFFFFFFFFFFFFFF, 0xFFFFFFFFFFFFFFFF]]) 16 =
      [0x30, 0x31, 0x39, 0x32, 0x34, 0x66, 0x31, 0x61, 0x33, 0x62, 0x30, 0x30, 0x37, 0x37, 0x66, 0x66] := by
  decide +kernel

/-- R180: a reset wins over the command beside it. -/
theorem test_reset_wins :
    regsAndValue (st 7 9 [{ cmd 0 8 [1, 2] with rst := true }]) = (0, 0, none) := by decide

/-- R107: the borrow at the top of the register wraps (D7). -/
theorem test_wrap :
    regsAndValue (st 0xFFFFFFFFFFFFFFFF 0x3FFFF [cmd 0 5 [0]]) = (0, 0, some 0x00000000000070008000000000000000) := by
  decide

/-- R92: the comparison is unsigned. -/
theorem test_comparator_unsigned :
    fresh 0x7FFFFFFFFFFFFFFF 0x8000000000000000 = false ∧ fresh 0x8000000000000000 0x7FFFFFFFFFFFFFFF = true := by decide

/-- R94: `FillRandom(6, 10)`, first row of the filler's table. -/
theorem test_fillRandom :
    (fillRandom 6 10 { Call.start State.reset with rngLeft := [0x0123456789ABCDEF, 0xFEDCBA9876543210] }).map (·.out) =
      some [(6, 0xEF), (7, 0xCD), (8, 0xAB), (9, 0x89), (10, 0x67), (11, 0x45), (12, 0x23), (13, 0x01), (14, 0x10),
        (15, 0x32)] := by decide

/-- The placed command is the one `step` runs, from reset, whatever the free answers are. -/
theorem test_withFetchWord_gen : step (State.reset.withFetchWord 8 0) = exec .gen (State.reset.withFetchWord 8 0) := rfl

theorem test_withFetchWord_gens : step (State.reset.withFetchWord 8 1) = exec .gens (State.reset.withFetchWord 8 1) := rfl

/-! ### Witnesses: states that meet the hypotheses of the statements -/

/-- A fresh GENS, with a stalled GEN after it. -/
def freshState : State := st 5 9 [cmd 1 6 [0x123456, 0xABCD], cmd 0 6 [7]]

/-- A stalled GEN below the top of the counter. -/
def stalledState : State := st 6 0x3FFFE [cmd 0 6 [7], cmd 1 4 [8]]

/-- A stalled GENS at the top of the counter. -/
def rollState : State := st 6 0x3FFFF [cmd 1 4 [7]]

theorem freshState_call : freshState.FreshCall 6 0x123456 0xABCD := ⟨by decide, by decide, by decide⟩

theorem freshState_commanded : freshState.Commanded := ⟨1, by decide⟩

theorem stalledState_call : stalledState.StalledCall 6 7 := ⟨by decide, by decide, by decide⟩

theorem rollState_call : rollState.StalledCall 4 7 := ⟨by decide, by decide, by decide⟩

theorem witness_ResetWinsAndClearsRegisters : ∃ (s : State) (p : PortInputs) (rest : List PortInputs),
    s.inputs = p :: rest ∧ p.rst = true ∧ p.cmdValid = true :=
  ⟨st 7 9 [{ cmd 0 8 [1, 2] with rst := true }], _, _, rfl, rfl, rfl⟩

theorem witness_StepRunsTheDecodedCommand : ∀ i : Instr, ∃ (s : State) (p : PortInputs) (rest : List PortInputs),
    s.inputs = p :: rest ∧ p.rst = false ∧ p.cmdValid = true ∧ decode p.cmdOp = i ∧ i.wellFormed = true := by
  intro i
  cases i
  · exact ⟨st 0 0 [cmd 0 1 []], _, _, rfl, rfl, rfl, rfl, rfl⟩
  · exact ⟨st 0 0 [cmd 1 1 []], _, _, rfl, rfl, rfl, rfl, rfl⟩

theorem witness_IdleTransactionKeepsRegisters :
    (∃ s : State, s.inputs = []) ∧ ∃ (s : State) (p : PortInputs) (rest : List PortInputs),
      s.inputs = p :: rest ∧ p.rst = false ∧ p.cmdValid = false :=
  ⟨⟨st 1 2 [], rfl⟩, st 1 2 [{ cmd 0 8 [] with cmdValid := false }], _, _, rfl, rfl, rfl⟩

theorem witness_answered : freshState.answered = true ∧ stalledState.answered = true ∧ rollState.answered = true := by
  decide

/-- The two states differ in everything a command does not read, the unused `w1` among it. -/
theorem witness_CommandIsFunctionOfItsInputs :
    ∃ s s' : State, s ≠ s' ∧ s.prevTimestamp = s'.prevTimestamp ∧ s.sequenceCounter = s'.sequenceCounter ∧
      s.clockSample = s'.clockSample ∧ s.answered = true ∧
      ∀ now, s.clockSample = some now → s.rngAnswers.take (wordsNeeded now s.prevTimestamp) =
        s'.rngAnswers.take (wordsNeeded now s.prevTimestamp) := by
  refine ⟨st 6 3 [cmd 0 6 [7, 8]], st 6 3 [cmd 0 6 [7], cmd 1 4 []], by decide, rfl, rfl, rfl, by decide, ?_⟩
  intro now h
  have hnow : (6 : Word64) = now := by simpa [State.clockSample, st, cmd] using h
  subst hnow
  decide

/-- All three cases of the closed form are met, the last two at the counter's boundary. -/
theorem witness_ClosedForm :
    (∃ s now w0 w1, State.FreshCall s now w0 w1) ∧
    (∃ s now w0, State.StalledCall s now w0 ∧ s.sequenceCounter.toNat < 0x3FFFF) ∧
    ∃ s now w0, State.StalledCall s now w0 ∧ s.sequenceCounter.toNat = 0x3FFFF :=
  ⟨⟨_, _, _, _, freshState_call⟩, ⟨_, _, _, stalledState_call, by decide⟩, ⟨_, _, _, rollState_call, by decide⟩⟩

theorem witness_GensIsOneGenWithItsText : ∃ (s t : State) (r : Response), exec .gen s = .next t ∧ t.response = some r := by
  obtain ⟨h, _⟩ | ⟨_, now, w0, w1, _, e⟩ | ⟨_, _, _, _, _, e⟩ | ⟨_, _, _, _, _, e⟩ :=
    complete_cases freshState (textOf .gen)
  · exact absurd h (by decide)
  all_goals exact ⟨freshState, _, _, by rw [exec_eq, e], rfl⟩

theorem witness_RepeatedCommandReturnsAnotherValue :
    ∃ s s' : State, s.answered = true ∧
      ¬ (s.prevTimestamp = 0xFFFFFFFFFFFFFFFF#64 ∧ s.sequenceCounter = Config.ctrMax) ∧
      s'.clockSample = s.clockSample ∧ s'.rngAnswers = s.rngAnswers ∧
      ∃ t, exec .gen s = .next t ∧ s'.prevTimestamp = t.prevTimestamp ∧ s'.sequenceCounter = t.sequenceCounter :=
  ⟨stalledState, st 6 0x3FFFF [cmd 0 6 [7]], by decide, by decide, by decide, by decide, _, rfl, by decide, by decide⟩

theorem witness_ComparatorChoosesTheBranch : ∃ (now now' : Word64) (c c' : Call),
    c.prevTimestamp.toNat < now.toNat ∧ now'.toNat ≤ c'.prevTimestamp.toNat :=
  ⟨6, 6, Call.start freshState, Call.start stalledState, by decide, by decide⟩

theorem witness_EqualityRegressionAndZeroAreStalled :
    (∃ now prev : Word64, now = prev) ∧ (∃ now prev : Word64, now.toNat < prev.toNat) ∧
    ∃ now : Word64, 1 ≤ now.toNat :=
  ⟨⟨5, 5, rfl⟩, ⟨4, 5, by decide⟩, ⟨1, by decide⟩⟩

theorem witness_FillRandomWritesByteLanes : ∃ (base n : Nat) (c : Call), base + n ≤ 16 ∧ (n + 7) / 8 ≤ c.rngLeft.length ∧
    n = 10 :=
  ⟨6, 10, Call.start freshState, by decide, by decide, rfl⟩

theorem witness_units :
    (∃ (c : Call) (w0 w1 : Word64) (rest : List Word64), c.rngLeft = w0 :: w1 :: rest) ∧
    (∃ (c : Call) (w0 : Word64) (rest : List Word64), c.rngLeft = w0 :: rest ∧ c.sequenceCounter.toNat + 1 ≤ 0x3FFFF) ∧
    ∃ (c : Call) (w0 : Word64) (rest : List Word64), c.rngLeft = w0 :: rest ∧ 0x3FFFF < c.sequenceCounter.toNat + 1 :=
  ⟨⟨Call.start freshState, _, _, _, rfl⟩, ⟨Call.start stalledState, _, _, rfl, by decide⟩,
   ⟨Call.start rollState, _, _, rfl, by decide⟩⟩

/-- Two fresh states whose drawn words differ only where R97 says nothing is read. -/
theorem witness_SeedIsTakenFromTheDrawnWord :
    ∃ (s s' : State) (now w0 w0' w1 : Word64), s.FreshCall now w0 w1 ∧ s'.FreshCall now w0' w1 ∧ w0 ≠ w0' ∧
      w0' &&& 0xFFFFFFFFFF3FFF07#64 = w0 &&& 0xFFFFFFFFFF3FFF07#64 :=
  ⟨freshState, st 5 9 [cmd 0 6 [0x1234FE, 0xABCD]], 6, 0x123456, 0x1234FE, 0xABCD, freshState_call,
   ⟨by decide, by decide, by decide⟩, by decide, by decide⟩

theorem witness_StalledCommandAddsOneToTheKey :
    ∃ (s : State) (now w0 : Word64), s.StalledCall now w0 ∧ s.sequenceCounter = Config.ctrMax ∧
      s.prevTimestamp.toNat < 2 ^ 64 - 1 :=
  ⟨rollState, 4, 7, rollState_call, by decide, by decide⟩

theorem witness_PackTimestampIsBigEndian : ∃ t : Word64, t.toNat < 2 ^ 48 ∧ t.toNat = 2 ^ 48 - 1 :=
  ⟨0xFFFFFFFFFFFF, by decide, by decide⟩

theorem witness_OutputBufferIsWhollyWritten : ∃ (s : State) (now : Word64) (c : Call),
    generate now (Call.start s) = some c :=
  ⟨freshState, 6, _, generate_fresh (s := freshState) (w0 := 0x123456) (w1 := 0xABCD) (rest := []) rfl (by decide)⟩

theorem witness_GuardBitIsClearAfterAFreshCall :
    (∃ s now w0 w1, State.FreshCall s now w0 w1) ∧
    (∃ s now w0, State.StalledCall s now w0 ∧ s.sequenceCounter = 0x1FFFF#18) ∧
    ∃ s now w0, State.StalledCall s now w0 ∧ s.sequenceCounter = 0x3FFFF#18 :=
  ⟨⟨_, _, _, _, freshState_call⟩,
   ⟨st 6 0x1FFFF [cmd 0 6 [7]], 6, 7, ⟨by decide, by decide, by decide⟩, rfl⟩, ⟨_, _, _, rollState_call, rfl⟩⟩

theorem witness_DrawnBitsThatReachTheOutput :
    (∃ (s s' : State) (now w0 w1 w0' w1' : Word64), s.FreshCall now w0 w1 ∧ s'.FreshCall now w0' w1') ∧
    ∃ (s s' : State) (now now' w0 w0' : Word64), s.StalledCall now w0 ∧ s'.StalledCall now' w0' ∧
      s.prevTimestamp = s'.prevTimestamp ∧ s.sequenceCounter = s'.sequenceCounter ∧ now ≠ now' :=
  ⟨⟨freshState, st 3 4 [cmd 0 6 [1, 2]], 6, _, _, 1, 2, freshState_call, by decide, by decide, by decide⟩,
   stalledState, st 6 0x3FFFE [cmd 0 4 [8]], 6, 4, 7, 8, stalledState_call, ⟨by decide, by decide, by decide⟩, rfl, rfl,
   by decide⟩

theorem witness_FirstCommandAfterReset :
    (∃ s : State, s.prevTimestamp = State.reset.prevTimestamp ∧ s.sequenceCounter = State.reset.sequenceCounter ∧
      s.answered = true ∧ s.clockSample = some 1) ∧
    ∃ s : State, s.prevTimestamp = State.reset.prevTimestamp ∧ s.sequenceCounter = State.reset.sequenceCounter ∧
      s.answered = true ∧ s.clockSample = some 0 :=
  ⟨⟨st 0 0 [cmd 0 1 [1, 2]], rfl, rfl, by decide, rfl⟩, ⟨st 0 0 [cmd 0 0 [1]], rfl, rfl, by decide, rfl⟩⟩

/-- The clock does not answer; the second random word of a fresh call does not come. -/
theorem witness_UnansweredCommandNeverEnds :
    (∃ s : State, s.Commanded ∧ s.answered = false ∧ s.clockSample = none) ∧
    ∃ s : State, s.Commanded ∧ s.answered = false ∧ s.clockSample = some 1 :=
  ⟨⟨st 0 0 [{ cmd 0 1 [1, 2] with nowMs := none }], ⟨0, by decide⟩, by decide, rfl⟩,
   ⟨st 0 0 [cmd 0 1 [1]], ⟨0, by decide⟩, by decide, rfl⟩⟩

/-! A run of two commands, a fresh GENS and a stalled GEN; the state after the first is matched. -/

theorem freshState_steady : SteadyRun freshState 2 := by
  intro k hk
  interval_cases k
  · exact ⟨by decide, fun h => absurd h.2.1 (by decide)⟩
  · exact ⟨by decide, fun h => absurd h.2.1 (by decide)⟩

/-- The state after the first of the two commands. -/
def afterFirst : State := after 1 freshState

/-- The state after both. -/
def afterSecond : State := after 1 afterFirst

theorem afterFirst_steady : SteadyRun afterFirst 1 := by
  intro k hk
  interval_cases k
  exact ⟨by decide, fun h => absurd h.2.1 (by decide)⟩

theorem afterFirst_matched : afterFirst.ResponseMatches := by
  intro r hr
  have h : afterFirst.response = some ⟨0x000000000006_76_34_92_0000000000_CD_AB,
      some (strPort (hex32 0x000000000006_76_34_92_0000000000_CD_AB)), 2⟩ := by decide +kernel
  rw [h] at hr
  cases hr
  exact ⟨by decide, .inr rfl, by decide⟩

theorem afterSecond_response :
    afterSecond.response = some ⟨0x000000000006_76_34_93_00000000000000, none, 1⟩ := by decide

theorem afterSecond_matched : afterSecond.ResponseMatches := by
  intro r hr
  rw [afterSecond_response] at hr
  cases hr
  exact ⟨by decide, .inl rfl, by decide⟩

theorem witness_StateKeyGrowsWithEveryCommand :
    (∃ s : State, s.answered = true ∧
      ¬ (s.prevTimestamp = 0xFFFFFFFFFFFFFFFF#64 ∧ s.sequenceCounter = Config.ctrMax)) ∧
    ∃ (s : State) (n j k : Nat), SteadyRun s n ∧ j < k ∧ k ≤ n ∧ (after k s).response.isSome = true :=
  ⟨⟨stalledState, by decide, by decide⟩, freshState, 2, 0, 2, freshState_steady, by decide, by decide, by decide⟩

theorem witness_ResultKeysCompareAsTheRegisters :
    ∃ (a b : State) (ra rb : Response), a.ResponseMatches ∧ b.ResponseMatches ∧ a.response = some ra ∧
      b.response = some rb ∧ a.prevTimestamp.toNat < 2 ^ 48 ∧ b.prevTimestamp.toNat < 2 ^ 48 ∧
      a.sequenceCounter.toNat < b.sequenceCounter.toNat := by
  obtain ⟨rb, hb⟩ := Option.isSome_iff_exists.1 (show afterSecond.response.isSome = true by decide)
  obtain ⟨ra, ha⟩ := Option.isSome_iff_exists.1 (show afterFirst.response.isSome = true by decide)
  exact ⟨afterFirst, afterSecond, ra, rb, afterFirst_matched, afterSecond_matched, ha, hb, by decide, by decide, by decide⟩

theorem witness_LogicalClockIsNeverBehindTheSample :
    (∃ (s : State) (now : Word64), s.answered = true ∧ s.clockSample = some now ∧
      ¬ (s.prevTimestamp = 0xFFFFFFFFFFFFFFFF#64 ∧ s.sequenceCounter = Config.ctrMax)) ∧
    ∃ (s : State) (n k : Nat) (now : Word64), SteadyRun s n ∧ k < n ∧ (after k s).Completes ∧
      (after k s).clockSample = some now :=
  ⟨⟨stalledState, 6, by decide, by decide, by decide⟩,
   freshState, 2, 0, 6, freshState_steady, by decide, ⟨freshState_commanded, by decide⟩, by decide⟩

/-- For `ResultPrefixesAreOrdered` and `ResultsStrictlyIncrease`. -/
theorem witness_ResultsStrictlyIncrease :
    ∃ (s : State) (n : Nat) (ra rb : Response), s.ResponseMatches ∧ s.response = some ra ∧ 1 ≤ n ∧ SteadyRun s n ∧
      (after n s).response = some rb ∧ (after n s).prevTimestamp.toNat < 2 ^ 48 := by
  obtain ⟨rb, hb⟩ := Option.isSome_iff_exists.1 (show (after 1 afterFirst).response.isSome = true by decide)
  obtain ⟨ra, ha⟩ := Option.isSome_iff_exists.1 (show afterFirst.response.isSome = true by decide)
  exact ⟨afterFirst, 1, ra, rb, afterFirst_matched, ha, le_refl 1, afterFirst_steady, hb, by decide⟩

theorem witness_ResultsArePairwiseDistinct :
    ∃ (s : State) (n : Nat), SteadyRun s n ∧ (after n s).prevTimestamp.toNat < 2 ^ 48 ∧ (emittedBy s n).length = 2 :=
  ⟨freshState, 2, freshState_steady, by decide, by decide⟩

theorem witness_LaterSampleGivesGreaterValueAcrossReset :
    ∃ (s u : State) (ra : Response) (now w0 w1 : Word64), s.ResponseMatches ∧ s.response = some ra ∧
      u.FreshCall now w0 w1 ∧ s.prevTimestamp.toNat < now.toNat ∧ now.toNat < 2 ^ 48 ∧ u.prevTimestamp = 0 := by
  obtain ⟨ra, ha⟩ := Option.isSome_iff_exists.1 (show afterFirst.response.isSome = true by decide)
  exact ⟨afterFirst, st 0 0 [cmd 0 7 [1, 2]], ra, 7, 1, 2, afterFirst_matched, ha, ⟨by decide, by decide, by decide⟩,
    by decide, by decide, rfl⟩

/-- Both clauses: a stalled command after a reset and a fresh one, and a fresh command with an earlier sample. -/
theorem witness_OrderAcrossResetFollowsTheSample :
    (∃ (s u : State) (ra : Response) (now w0 : Word64), s.ResponseMatches ∧ s.response = some ra ∧
      u.StalledCall now w0 ∧ s.prevTimestamp.toNat < now.toNat ∧
      ¬ (u.prevTimestamp = 0xFFFFFFFFFFFFFFFF#64 ∧ u.sequenceCounter = Config.ctrMax) ∧
      u.prevTimestamp.toNat < 2 ^ 48 - 1) ∧
    ∃ (s u : State) (ra : Response) (now w0 w1 : Word64), s.ResponseMatches ∧ s.response = some ra ∧
      u.FreshCall now w0 w1 ∧ now.toNat < s.prevTimestamp.toNat ∧ s.prevTimestamp.toNat < 2 ^ 48 := by
  obtain ⟨ra, ha⟩ := Option.isSome_iff_exists.1 (show afterFirst.response.isSome = true by decide)
  exact ⟨⟨afterFirst, st 7 3 [cmd 0 7 [1]], ra, 7, 1, afterFirst_matched, ha, ⟨by decide, by decide, by decide⟩,
    by decide, by decide, by decide⟩, afterFirst, st 0 0 [cmd 0 5 [1, 2]], ra, 5, 1, 2, afterFirst_matched, ha,
    ⟨by decide, by decide, by decide⟩, by decide, by decide⟩

/-! A fresh command with the largest seed and one stalled command after it. -/

/-- All random words ones (S4), the clock frozen. -/
def burstState : State :=
  st 0 0 [cmd 0 6 [0xFFFFFFFFFFFFFFFF, 0xFFFFFFFFFFFFFFFF], cmd 0 6 [0xFFFFFFFFFFFFFFFF]]

theorem burstState_call : burstState.FreshCall 6 0xFFFFFFFFFFFFFFFF 0xFFFFFFFFFFFFFFFF :=
  ⟨by decide, by decide, by decide⟩

theorem burstState_stalledRun : StalledRun (advance burstState) 1 := by
  intro k hk
  interval_cases k
  exact ⟨⟨0, by decide⟩, 6, 0xFFFFFFFFFFFFFFFF, by decide, by decide, by decide⟩

theorem witness_StalledRunCountsItsRollovers : ∃ (s : State) (n : Nat), StalledRun s n ∧ n = 1 :=
  ⟨advance burstState, 1, burstState_stalledRun, rfl⟩

theorem witness_HeadroomAfterASeed :
    ∃ (s : State) (now w0 w1 : Word64) (n : Nat), s.Commanded ∧ s.FreshCall now w0 w1 ∧ StalledRun (advance s) n ∧
      1 ≤ n ∧ n ≤ 0x3FFFF - (seedOf w0).toNat :=
  ⟨burstState, 6, _, _, 1, ⟨0, by decide⟩, burstState_call, burstState_stalledRun, le_refl 1, by decide⟩

theorem witness_DriftIsBoundedByTheRollovers :
    ∃ (s : State) (now w0 w1 : Word64) (n : Nat), s.Commanded ∧ s.FreshCall now w0 w1 ∧ StalledRun (advance s) n ∧
      now.toNat + ((seedOf w0).toNat + n) / 2 ^ 18 < 2 ^ 64 ∧
      (∀ (k : Nat) (x : Word64), k < n → (after k (advance s)).clockSample = some x → now.toNat ≤ x.toNat) ∧
      ∃ (k : Nat) (x : Word64), k < n ∧ (after k (advance s)).clockSample = some x := by
  have hclock : (after 0 (advance burstState)).clockSample = some 6 := by decide
  refine ⟨burstState, 6, _, _, 1, ⟨0, by decide⟩, burstState_call, burstState_stalledRun, by decide, ?_,
    0, 6, by decide, hclock⟩
  intro k x hk hx
  interval_cases k
  have : some 6 = some x := hclock.symm.trans hx
  cases this
  decide

theorem witness_StepKeepsTheResponseMatched : ∃ s t : State, s.ResponseMatches ∧ step s = .next t ∧
    t.response.isSome = true :=
  ⟨afterFirst, _, afterFirst_matched, rfl, by decide⟩

theorem witness_RegistersChangeOnlyByCommandOrReset :
    (∃ s t : State, step s = .next t ∧ (t.prevTimestamp ≠ s.prevTimestamp ∨ t.sequenceCounter ≠ s.sequenceCounter)) ∧
    ∃ s t : State, step s = .next t ∧ t.prevTimestamp.toNat < s.prevTimestamp.toNat :=
  ⟨⟨freshState, _, rfl, by decide⟩, ⟨st 0xFFFFFFFFFFFFFFFF 0x3FFFF [cmd 0 5 [0]], _, rfl, by decide⟩⟩

theorem witness_InstancesAreIndependent : ∃ (sys : System) (j k : Nat), j ≠ k ∧ k < sys.instances.length :=
  ⟨System.reset 2, 0, 1, by decide, by decide⟩

/-- R152: without a later sample the order is lost across a reset: after a value with timestamp 6, a reset and a GEN with
a sample of 1 return a smaller one. -/
theorem test_order_lost_across_reset :
    (regsAndValue (st 0 0 [cmd 0 1 [0, 0]])).2.2.map (fun u => decide (u.toNat < 0x000000000006_76_34_92_0000000000_CD_AB))
      = some true := by decide

end Sys2Proof.Tests
end

section
/-! PROOF. The registers under a step (`10_state.md` section 2, R21 and R22): what a step can do to them, said once, and
the two statements about the registers and their reset values. -/

namespace Sys2Proof.Machine

/-- What a step does to the two registers: a reset clears them, a step that finishes no command keeps them, and a
finished command stores a later sample with its seed, counts, or rolls over (R21, R22, R97, R98, R162, R180). -/
theorem step_registers_cases {s t : State} (h : step s = .next t) :
    (s.request = .reset ∧ t.prevTimestamp = 0 ∧ t.sequenceCounter = 0) ∨
    (t.prevTimestamp = s.prevTimestamp ∧ t.sequenceCounter = s.sequenceCounter) ∨
    (s.Completes ∧ ∃ now w0 w1, s.FreshCall now w0 w1 ∧ t.prevTimestamp = now ∧ t.sequenceCounter = seedOf w0) ∨
    (s.Completes ∧ s.sequenceCounter ≠ Config.ctrMax ∧ t.prevTimestamp = s.prevTimestamp ∧
      t.sequenceCounter = s.sequenceCounter + 1) ∨
    (s.Completes ∧ s.sequenceCounter = Config.ctrMax ∧ t.prevTimestamp = s.prevTimestamp + 1 ∧
      t.sequenceCounter = 0) := by
  obtain ⟨-, hstep⟩ | ⟨hreset, hstep⟩ | ⟨op, hop, hstep⟩ := step_cases s <;>
    obtain rfl := Host.Outcome.next.inj (hstep.symm.trans h)
  case inl => exact .inr (.inl ⟨rfl, rfl⟩)
  case inr.inl => exact .inl ⟨hreset, rfl, rfl⟩
  case inr.inr =>
    right
    have hcommanded : s.Commanded := ⟨op, hop⟩
    obtain ⟨-, e⟩ | ⟨hans, now, w0, w1, hcall, e⟩ | ⟨hans, hsc, _, _, _, e⟩ | ⟨hans, hsc, _, _, _, e⟩ :=
      complete_cases s (textOf (decode op)) <;> rw [e]
    · exact .inl ⟨rfl, rfl⟩
    · exact .inr (.inl ⟨⟨hcommanded, hans⟩, now, w0, w1, hcall, rfl, rfl⟩)
    · exact .inr (.inr (.inl ⟨⟨hcommanded, hans⟩, hsc, rfl, rfl⟩))
    · exact .inr (.inr (.inr ⟨⟨hcommanded, hans⟩, hsc, rfl, rfl⟩))

/-- Adding one lowers a 64-bit word only at its top (R99, D7). -/
theorem eq_top_of_toNat_add_one_lt {x : Word64} (h : (x + 1).toNat < x.toNat) : x = 0xFFFFFFFFFFFFFFFF#64 := by
  bv_omega

/-- Settles O44: of the five things a step can do to the registers, only the reset and the three finished commands change
one, and of these only the reset and the rollover at `2^64` lower `prev_timestamp`. -/
theorem registersChangeOnlyByCommandOrReset : Obligations.RegistersChangeOnlyByCommandOrReset := by
  constructor
  · intro s t h hchange
    obtain ⟨hreset, -⟩ | ⟨hpt, hsc⟩ | ⟨hdone, -⟩ | ⟨hdone, -⟩ | ⟨hdone, -⟩ := step_registers_cases h
    · exact .inl hreset
    · exact absurd hchange (by simp [hpt, hsc])
    all_goals exact .inr hdone
  · intro s t h hfall
    obtain ⟨hreset, -⟩ | ⟨hpt, -⟩ | ⟨-, now, _, _, ⟨-, -, hlater⟩, hpt, -⟩ | ⟨-, -, hpt, -⟩ | ⟨hdone, hsc, hpt, -⟩ :=
      step_registers_cases h
    · exact .inl hreset
    · exact absurd hfall (by simp [hpt])
    · exact absurd hfall (by rw [hpt]; omega)
    · exact absurd hfall (by simp [hpt])
    · exact .inr ⟨hdone, eq_top_of_toNat_add_one_lt (hpt ▸ hfall), hsc⟩

/-- Settles O2: `State.reset` is written with the values of R32 and R181, and with no request (log entry 1). -/
theorem resetStateHoldsResetValues : Obligations.ResetStateHoldsResetValues :=
  ⟨rfl, rfl, rfl, rfl, rfl⟩

end Sys2Proof.Machine
end

section
/-! PROOF. The output buffer and the instances (`20_memory.md` sections 1, 3 and 4): what a call leaves of the buffer it
started on, what a second command on the same answers returns, and that steps of two instances do not meet. -/

namespace Sys2Proof.Machine

/-! ### A second command on the same answers (R46) -/

/-- The first half of a stalled call counts up by one modulo `2^18`, the rollover included (R98). -/
theorem countUp_sequenceCounter (c : Call) : (countUp c).sequenceCounter = c.sequenceCounter + 1 := by
  rw [countUp_eq]
  split
  · simp only [‹c.sequenceCounter = Config.ctrMax›]
    decide
  · rfl

/-- A stalled command leaves the counter one higher, and returns that counter (R98, R105). -/
theorem State.StalledCall.complete_eq {s : State} {now w0 : Word64} (h : s.StalledCall now w0)
    (textOf : Uuid → Option Text) :
    ∃ pt, s.complete (runGenerate s) textOf = s.emitted pt (s.sequenceCounter + 1) (stalledTail w0) textOf 1 := by
  obtain ⟨hclock, htake, hle⟩ := h
  obtain ⟨rest, hw⟩ := take_one_iff.1 htake
  have hsc : (countUp (Call.start s)).sequenceCounter = s.sequenceCounter + 1 := countUp_sequenceCounter _
  refine ⟨(countUp (Call.start s)).prevTimestamp, ?_⟩
  simp only [runGenerate, hclock, Option.bind_some, generate_stalled hw hle, State.complete, State.finish,
    State.emitted, stalledOut_uuid, hsc]

/-- Adding one raises a 64-bit word unless it stands at its top. -/
theorem toNat_le_toNat_add_one {x : Word64} (h : x ≠ 0xFFFFFFFFFFFFFFFF#64) : x.toNat ≤ (x + 1).toNat := by
  by_contra hlt
  exact h (eq_top_of_toNat_add_one_lt (Nat.lt_of_not_le hlt))

/-- An answered command that does not wrap leaves `prev_timestamp` at its own clock sample or later (R97, R98, R99), so
the same sample stalls the next command. -/
theorem State.complete_not_behind_sample {s : State} (hans : s.answered = true)
    (hwrap : ¬ (s.prevTimestamp = 0xFFFFFFFFFFFFFFFF#64 ∧ s.sequenceCounter = Config.ctrMax))
    (textOf : Uuid → Option Text) :
    ∃ now w0 pt sc tail draws, s.clockSample = some now ∧ s.rngAnswers.take 1 = [w0] ∧ now.toNat ≤ pt.toNat ∧
      s.complete (runGenerate s) textOf = s.emitted pt sc tail textOf draws := by
  obtain ⟨hno, -⟩ | ⟨-, now, w0, w1, ⟨hclock, htake, -⟩, e⟩ | ⟨-, -, now, w0, ⟨hclock, htake, hle⟩, e⟩ |
    ⟨-, hsc, now, w0, ⟨hclock, htake, hle⟩, e⟩ := complete_cases s textOf
  · simp [hans] at hno
  · obtain ⟨rest, hw⟩ := take_two_iff.1 htake
    exact ⟨now, w0, _, _, _, _, hclock, by simp [hw], le_rfl, e⟩
  · exact ⟨now, w0, _, _, _, _, hclock, htake, hle, e⟩
  · have htop : s.prevTimestamp ≠ 0xFFFFFFFFFFFFFFFF#64 := fun htop => hwrap ⟨htop, hsc⟩
    exact ⟨now, w0, _, _, _, _, hclock, htake, hle.trans (toNat_le_toNat_add_one htop), e⟩

/-- Two values whose counters are one apart differ. -/
theorem layout_ne_of_next_counter (pt pt' : Word64) (sc : Counter) (tail tail' : BitVec 56) :
    layout pt sc tail ≠ layout pt' (sc + 1) tail' := by
  intro h
  have hctr : sc = sc + 1 := by simpa only [ctrOf_layout] using congrArg ctrOf h
  bv_omega

/-- Settles O12: the first command leaves `prev_timestamp` no earlier than the sample, so the second one is stalled and
returns the counter after the first one's. -/
theorem repeatedCommandReturnsAnotherValue : Obligations.RepeatedCommandReturnsAnotherValue := by
  rintro i j s s' hans hwrap hclock hrng ⟨t, ht, hpt, hsc⟩
  obtain ⟨now, w0, pt, sc, tail, draws, hnow, hw0, hle, hfirst⟩ := s.complete_not_behind_sample hans hwrap (textOf i)
  rw [exec_eq, hfirst] at ht
  obtain rfl := Host.Outcome.next.inj ht
  have hstalled : s'.StalledCall now w0 := ⟨hclock.trans hnow, by rw [hrng, hw0], by rw [hpt]; exact hle⟩
  obtain ⟨pt', hsecond⟩ := hstalled.complete_eq (textOf j)
  refine ⟨_, _, _, _, (exec_eq i s).trans (congrArg _ hfirst), (exec_eq j s').trans (congrArg _ hsecond), rfl, rfl, ?_⟩
  rw [hsc]
  exact layout_ne_of_next_counter _ _ _ _ _

/-! ### The buffer's content at the start of a call (R40, R51) -/

/-- Two calls that differ at most in their buffers, and there at no address of `known`. -/
structure Call.AgreeOn (known : Set Nat) (c d : Call) : Prop where
  prevTimestamp : c.prevTimestamp = d.prevTimestamp
  sequenceCounter : c.sequenceCounter = d.sequenceCounter
  rngLeft : c.rngLeft = d.rngLeft
  rngTaken : c.rngTaken = d.rngTaken
  get : ∀ a ∈ known, c.get a = d.get a

namespace Call.AgreeOn

variable {known known' : Set Nat} {c d : Call}

theorem mono (h : AgreeOn known c d) (hsub : ∀ a ∈ known', a ∈ known) : AgreeOn known' c d :=
  { h with get := fun a ha => h.get a (hsub a ha) }

/-- A byte written to both calls agrees from then on. -/
theorem put_both (h : AgreeOn known c d) (a : Nat) (v : Byte) : AgreeOn (insert a known) (c.put a v) (d.put a v) where
  prevTimestamp := h.prevTimestamp
  sequenceCounter := h.sequenceCounter
  rngLeft := h.rngLeft
  rngTaken := h.rngTaken
  get b hb := by
    by_cases hba : b = a
    · subst hba
      simp
    · simpa [hba] using h.get b (Set.mem_of_mem_insert_of_ne hb hba)

theorem setRegisters (h : AgreeOn known c d) (pt : Word64) (sc : Counter) :
    AgreeOn known { c with prevTimestamp := pt, sequenceCounter := sc }
      { d with prevTimestamp := pt, sequenceCounter := sc } :=
  ⟨rfl, rfl, h.rngLeft, h.rngTaken, h.get⟩

/-- A draw takes the same word in both calls. -/
theorem rngDraw_some (h : AgreeOn known c d) {w : Word64} {c' : Call} (hc : c.rngDraw = some (w, c')) :
    ∃ d', d.rngDraw = some (w, d') ∧ AgreeOn known c' d' := by
  unfold Call.rngDraw at hc ⊢
  rw [← h.rngLeft]
  split at hc
  · contradiction
  · simp only [Option.some.injEq, Prod.mk.injEq] at hc
    obtain ⟨rfl, rfl⟩ := hc
    exact ⟨_, rfl, h.prevTimestamp, h.sequenceCounter, rfl, congrArg (· + 1) h.rngTaken, h.get⟩

/-- The loop of `FillRandom` makes the two calls agree at the bytes it writes (R94). -/
theorem fillFrom_some {base n k : Nat} {w : Word64} {c' : Call} (h : AgreeOn known c d)
    (hc : fillFrom base k n w c = some c') :
    ∃ d', fillFrom base k n w d = some d' ∧
      AgreeOn (known ∪ Set.Ico (base + k) (base + k + n)) c' d' := by
  induction n generalizing known k w c d with
  | zero =>
    obtain rfl := Option.some.inj hc
    exact ⟨d, rfl, h.mono (by simp)⟩
  | succ n ih =>
    have hsub : ∀ a ∈ known ∪ Set.Ico (base + k) (base + k + (n + 1)),
        a ∈ insert (base + k) known ∪ Set.Ico (base + (k + 1)) (base + (k + 1) + n) := by
      rintro a (ha | ⟨hlo, hhi⟩)
      · exact .inl (.inr ha)
      · rcases hlo.eq_or_lt with rfl | hlt
        · exact .inl (.inl rfl)
        · exact .inr ⟨hlt, by omega⟩
    rw [fillFrom] at hc ⊢
    by_cases hk : k % 8 = 0
    · rw [if_pos hk] at hc ⊢
      rcases hdraw : c.rngDraw with _ | ⟨w', c₁⟩ <;> simp only [hdraw] at hc
      · contradiction
      obtain ⟨d₁, hd, h₁⟩ := h.rngDraw_some hdraw
      obtain ⟨d', hrun, h'⟩ := ih (h₁.put_both _ _) hc
      exact ⟨d', by rw [hd]; exact hrun, h'.mono hsub⟩
    · rw [if_neg hk] at hc ⊢
      obtain ⟨d', hrun, h'⟩ := ih (h.put_both _ _) hc
      exact ⟨d', hrun, h'.mono hsub⟩

/-- `FillRandom` from its first byte on (R94). -/
theorem fillRandom_some {base n : Nat} {c' : Call} (h : AgreeOn known c d) (hc : fillRandom base n c = some c') :
    ∃ d', fillRandom base n d = some d' ∧ AgreeOn (known ∪ Set.Ico base (base + n)) c' d' :=
  h.fillFrom_some hc

/-- `FreshUnit` writes bytes 6 to 15, and reads of the buffer only what it has written (R96). -/
theorem freshUnit_some {now : Word64} {r : Word64 × Call} (h : AgreeOn known c d) (hc : freshUnit now c = some r) :
    ∃ d', freshUnit now d = some (r.1, d') ∧ AgreeOn (Set.Ico 6 16) r.2 d' := by
  obtain ⟨c₁, hfill, rfl⟩ := Option.map_eq_some_iff.1 hc
  obtain ⟨d₁, hd, h₁⟩ := h.fillRandom_some hfill
  have h6 : c₁.get 6 = d₁.get 6 := h₁.get 6 (by simp)
  have h₂ := h₁.put_both 6 (clearGuard (c₁.get 6))
  refine ⟨_, by rw [freshUnit, hd]; rfl, ?_⟩
  dsimp only
  rw [← h6, ← h₂.get 6 (by simp), ← h₂.get 7 (by simp), ← h₂.get 8 (by simp)]
  exact (h₂.setRegisters _ _).mono fun a ha => .inr (.inr ha)

/-- Counting up reads and writes the registers only (R98, R99). -/
theorem countUp_both (h : AgreeOn known c d) : AgreeOn known (countUp c) (countUp d) := by
  rw [countUp_eq, countUp_eq, ← h.sequenceCounter, ← h.prevTimestamp]
  split
  · exact h.setRegisters _ _
  · exact h.setRegisters c.prevTimestamp _

/-- `FillCounter` writes bytes 6 to 15 and reads none of the buffer (R100). -/
theorem fillCounter_some {c' : Call} (h : AgreeOn known c d) (hc : fillCounter c = some c') :
    ∃ d', fillCounter d = some d' ∧ AgreeOn (Set.Ico 6 16) c' d' := by
  obtain ⟨c₁, hfill, rfl⟩ := Option.map_eq_some_iff.1 hc
  obtain ⟨d₁, hd, h₁⟩ := h.fillRandom_some hfill
  refine ⟨_, by rw [fillCounter, hd]; rfl, ?_⟩
  dsimp only
  rw [← h₁.sequenceCounter]
  refine (((h₁.put_both 6 _).put_both 7 _).put_both 8 _).mono fun a => ?_
  simp only [Set.mem_insert_iff, Set.mem_union, Set.mem_Ico]
  omega

/-- `StalledUnit` emits the same timestamp from both calls (R98, R100). -/
theorem stalledUnit_some {r : Word64 × Call} (h : AgreeOn known c d) (hc : stalledUnit c = some r) :
    ∃ d', stalledUnit d = some (r.1, d') ∧ AgreeOn (Set.Ico 6 16) r.2 d' := by
  obtain ⟨c₁, hfill, rfl⟩ := Option.map_eq_some_iff.1 hc
  obtain ⟨d', hd, h'⟩ := h.countUp_both.fillCounter_some hfill
  exact ⟨d', by rw [stalledUnit, hd, ← h.countUp_both.prevTimestamp]; rfl, h'⟩

/-- The packer writes bytes 0 to 5, and reads bytes 6 and 8 (R101, R102, R103). -/
theorem pack_both (h : AgreeOn (Set.Ico 6 16) c d) (t : Word64) : AgreeOn (Set.Ico 0 16) (pack t c) (pack t d) := by
  have hts : AgreeOn (Set.Ico 0 16) (packTimestamp t c) (packTimestamp t d) := by
    refine ((((((h.put_both 0 _).put_both 1 _).put_both 2 _).put_both 3 _).put_both 4 _).put_both 5 _).mono fun a => ?_
    simp only [Set.mem_insert_iff, Set.mem_Ico]
    omega
  have hver : AgreeOn (Set.Ico 0 16) (packVersion (packTimestamp t c)) (packVersion (packTimestamp t d)) := by
    rw [packVersion, packVersion, ← hts.get 6 (by simp)]
    exact (hts.put_both 6 _).mono fun a => .inr
  rw [pack, pack, packVariant, packVariant, ← hver.get 8 (by simp)]
  exact (hver.put_both 8 _).mono fun a => .inr

/-- A whole call ends alike from any two buffers: afterwards all 16 bytes agree (R40, R90). -/
theorem generate_some {now : Word64} {c' : Call} (h : AgreeOn known c d) (hc : generate now c = some c') :
    ∃ d', generate now d = some d' ∧ AgreeOn (Set.Ico 0 16) c' d' := by
  obtain ⟨r, hunit, rfl⟩ := Option.map_eq_some_iff.1 hc
  rw [generate, ← h.prevTimestamp]
  by_cases hf : fresh now c.prevTimestamp = true
  · rw [if_pos hf] at hunit ⊢
    obtain ⟨d', hd, h'⟩ := h.freshUnit_some hunit
    exact ⟨_, by rw [hd]; rfl, h'.pack_both _⟩
  · rw [if_neg hf] at hunit ⊢
    obtain ⟨d', hd, h'⟩ := h.stalledUnit_some hunit
    exact ⟨_, by rw [hd]; rfl, h'.pack_both _⟩

/-- The value is read from the 16 bytes alone (R104). -/
theorem uuid_eq (h : AgreeOn (Set.Ico 0 16) c d) : c.out.uuid = d.out.uuid := by
  apply BitVec.eq_of_getLsbD_eq
  intro i hi
  rw [Memory.uuid_getLsbD _ hi, Memory.uuid_getLsbD _ hi]
  exact congrArg (·.getLsbD (i % 8)) (h.get (15 - i / 8) (by simp; omega))

end Call.AgreeOn

/-- A call that ends leaves the 16 cells of `freshOut` or those of `stalledOut`. -/
theorem generate_out_cases {s : State} {now : Word64} {c : Call} (h : generate now (Call.start s) = some c) :
    (∃ w0 w1, c.out = freshOut now w0 w1) ∨ ∃ pt sc w0, c.out = stalledOut pt sc w0 := by
  rcases Nat.lt_or_ge s.prevTimestamp.toNat now.toNat with hf | hf
  · match hw : s.rngAnswers with
    | [] | [_] => simp [generate_fresh_short (s := s) (by simp [hw]) hf] at h
    | w0 :: w1 :: rest =>
      rw [generate_fresh hw hf] at h
      exact .inl ⟨w0, w1, by rw [← Option.some.inj h]⟩
  · match hw : s.rngAnswers with
    | [] => simp [generate_stalled_short hw hf] at h
    | w0 :: rest =>
      rw [generate_stalled hw hf] at h
      exact .inr ⟨_, _, w0, by rw [← Option.some.inj h]⟩

/-- Settles O24: the cells of both branches list every address once, in order; and a call on another buffer starts from
agreement at no address and ends in agreement at all 16. -/
theorem outputBufferIsWhollyWritten : Obligations.OutputBufferIsWhollyWritten := by
  intro s now c hc
  obtain ⟨haddrs, hwf⟩ : c.out.map Prod.fst = List.range 16 ∧ c.out.wf = true := by
    obtain ⟨w0, w1, e⟩ | ⟨pt, sc, w0, e⟩ := generate_out_cases hc <;> rw [e] <;> exact ⟨rfl, rfl⟩
  refine ⟨haddrs, hwf, fun m => ?_⟩
  have hstart : Call.AgreeOn ∅ (Call.start s) { Call.start s with out := m } := ⟨rfl, rfl, rfl, rfl, by simp⟩
  obtain ⟨c', hc', hagree⟩ := hstart.generate_some hc
  exact ⟨c', hc', hagree.uuid_eq.symm⟩

/-! ### Several instances (R8, R49) -/

theorem System.stepAt_getElem?_other (sys : System) {j k : Nat} (h : j ≠ k) :
    (sys.stepAt j).instances[k]? = sys.instances[k]? := by
  simp [System.stepAt, h]

theorem System.stepAt_getElem?_same (sys : System) (k : Nat) :
    (sys.stepAt k).instances[k]? = sys.instances[k]?.map advance := by
  simp [System.stepAt]

/-- A step reads its own entry of the list only, so entry by entry the order of two different steps does not matter. -/
theorem System.stepAt_comm (sys : System) {j k : Nat} (h : j ≠ k) :
    (sys.stepAt j).stepAt k = (sys.stepAt k).stepAt j := by
  have hentry (i : Nat) : ((sys.stepAt j).stepAt k).instances[i]? = ((sys.stepAt k).stepAt j).instances[i]? := by
    by_cases hk : k = i
    · subst hk
      simp only [stepAt_getElem?_same, stepAt_getElem?_other _ h]
    · by_cases hj : j = i
      · subst hj
        simp only [stepAt_getElem?_same, stepAt_getElem?_other _ hk]
      · simp only [stepAt_getElem?_other _ hk, stepAt_getElem?_other _ hj]
  exact congrArg System.mk (List.ext_getElem? hentry)

/-- Settles O45: a step changes its own entry of the list and no other, and never the length. -/
theorem instancesAreIndependent : Obligations.InstancesAreIndependent := fun sys j k hjk =>
  ⟨sys.stepAt_getElem?_other hjk, sys.stepAt_comm hjk, by simp [System.stepAt]⟩

end Sys2Proof.Machine
end

section
/-! PROOF. Commands and fields (`30_encoding.md`): the command words and the step that decodes them (section 1), scatter
and gather of the counter (section 2), and the result read back from its bits and bytes (R71, R72, R74). -/

namespace Sys2Proof.Machine

/-! ### Command words (R61, R75, R76) -/

/-- Settles O3: both words, written out, through the decoder, the encoder and the table's reading. -/
theorem commandWordsSelectTheirCommands : Obligations.CommandWordsSelectTheirCommands :=
  ⟨rfl, rfl, rfl, rfl, by decide, by decide⟩

theorem command_roundTrip (i : Instr) : Laws.RoundTrip.Statement i := by
  cases i with
  | gen => exact Laws.RoundTrip.gen
  | gens => exact Laws.RoundTrip.gens

theorem encode_decode (op : BitVec 1) : encode (decode op) = op := by
  obtain rfl | rfl := BitVec.eq_zero_or_eq_one op <;> rfl

/-- Settles O4: the round trip of each command, and the two values of the one bit. -/
theorem decodeAndEncodeAgree : Obligations.DecodeAndEncodeAgree := by
  refine ⟨fun i => ?_, encode_decode⟩
  obtain ⟨hwf, hdecode, -⟩ := command_roundTrip i
  exact ⟨hwf, hdecode⟩

/-! ### What the front of the inputs asks (R62) -/

section
variable {s : State} {p : PortInputs} {rest : List PortInputs}

theorem State.request_of_no_inputs (h : s.inputs = []) : s.request = .nothing := by
  simp [State.request, h]

theorem State.request_of_command (h : s.inputs = p :: rest) (hrst : p.rst = false) (hvalid : p.cmdValid = true) :
    s.request = .command p.cmdOp := by
  simp [State.request, h, hrst, hvalid]

theorem State.request_of_idle (h : s.inputs = p :: rest) (hrst : p.rst = false) (hvalid : p.cmdValid = false) :
    s.request = .nothing := by
  simp [State.request, h, hrst, hvalid]

theorem step_of_command {op : BitVec 1} (h : s.request = .command op) : step s = exec (decode op) s := by
  simp only [step, h]

theorem step_of_nothing (h : s.request = .nothing) : step s = .next s.idleStep := by
  simp only [step, h]

end

/-- Settles O5: the request is the command word at the front, and `step` hands it to `exec`. -/
theorem stepRunsTheDecodedCommand : Obligations.StepRunsTheDecodedCommand := by
  rintro s p rest i hin hrst hvalid rfl -
  exact step_of_command (State.request_of_command hin hrst hvalid)

/-- Settles O6: in both cases nothing is requested, and the idle step changes the ports only. -/
theorem idleTransactionKeepsRegisters : Obligations.IdleTransactionKeepsRegisters := by
  constructor
  · intro s hin
    rw [step_of_nothing (State.request_of_no_inputs hin), State.idleStep, hin]
    rfl
  · intro s p rest hin hrst hvalid
    rw [step_of_nothing (State.request_of_idle hin hrst hvalid), State.idleStep, hin]
    rfl

/-! ### Scatter and gather of the counter (R67, R68) -/

theorem gatherCounter_scatter (c : Counter) : gatherCounter (counterHigh c) (counterMid c) (counterLow c) = c := by
  apply BitVec.eq_of_getLsbD_eq
  intro i hi
  simp only [gatherCounter_getLsbD, counterHigh_getLsbD, counterMid_getLsbD, counterLow_getLsbD]
  interval_cases i <;> simp

section
variable (b6 b7 b8 : Byte)

theorem counterHigh_gatherCounter : counterHigh (gatherCounter b6 b7 b8) = b6 &&& 0x0F#8 := by
  apply BitVec.eq_of_getLsbD_eq
  intro i hi
  simp only [counterHigh_getLsbD, gatherCounter_getLsbD, BitVec.getLsbD_and]
  interval_cases i <;> simp

theorem counterMid_gatherCounter : counterMid (gatherCounter b6 b7 b8) = b7 := by
  apply BitVec.eq_of_getLsbD_eq
  intro i hi
  simp only [counterMid_getLsbD, gatherCounter_getLsbD]
  interval_cases i <;> simp

theorem counterLow_gatherCounter : counterLow (gatherCounter b6 b7 b8) = b8 &&& 0x3F#8 := by
  apply BitVec.eq_of_getLsbD_eq
  intro i hi
  simp only [counterLow_getLsbD, gatherCounter_getLsbD, BitVec.getLsbD_and]
  interval_cases i <;> simp

/-- The guard bit of byte 6 is the top bit of the counter (R22, R96). -/
theorem gatherCounter_clearGuard_top : (gatherCounter (clearGuard b6) b7 b8).getLsbD 17 = false := by
  rw [gatherCounter_getLsbD, clearGuard_getLsbD]
  rfl

end

/-- A counter with its guard bit clear is one a fresh call can store (R97). -/
theorem counter_toNat_le_of_guard_clear {c : Counter} (h : c.getLsbD 17 = false) : c.toNat ≤ 0x1FFFF := by
  have hmsb : c.msb = false := by rw [BitVec.msb_eq_getLsbD_last, h]
  exact Nat.le_of_lt_succ (BitVec.toNat_lt_of_msb_false hmsb)

/-- Settles O23: the two inverses hold bit by bit, and the cleared guard bit is bit 17 of the counter. -/
theorem gatherInvertsScatter : Obligations.GatherInvertsScatter := by
  refine ⟨gatherCounter_scatter, fun b6 b7 b8 => ?_, fun b6 b7 b8 => ?_⟩
  · exact ⟨counterHigh_gatherCounter b6 b7 b8, counterMid_gatherCounter b6 b7 b8, counterLow_gatherCounter b6 b7 b8⟩
  · have htop := gatherCounter_clearGuard_top b6 b7 b8
    exact ⟨counter_toNat_le_of_guard_clear htop, htop⟩

/-! ### The state a command answers, branch by branch (R105) -/

/-- What a fresh command answers, whichever of the two it is. -/
theorem State.FreshCall.exec_eq {s : State} {now w0 w1 : Word64} (h : s.FreshCall now w0 w1) (i : Instr) :
    exec i s = .next (s.emitted now (seedOf w0) (freshTail w0 w1) (textOf i) 2) := by
  obtain ⟨hclock, htake, hlt⟩ := h
  obtain ⟨rest, hw⟩ := take_two_iff.1 htake
  rw [Machine.exec_eq]
  simp only [runGenerate, hclock, Option.bind_some, generate_fresh hw hlt, State.complete, State.finish,
    State.emitted, freshOut_uuid]

/-- `prev_timestamp` after a stalled command: one later on a rollover (R98, R99). -/
def State.stalledTimestamp (s : State) : Word64 :=
  if s.sequenceCounter = Config.ctrMax then s.prevTimestamp + 1 else s.prevTimestamp

theorem countUp_start_prevTimestamp (s : State) : (countUp (Call.start s)).prevTimestamp = s.stalledTimestamp := by
  have hsc : (Call.start s).sequenceCounter = s.sequenceCounter := rfl
  rw [countUp_eq, State.stalledTimestamp, hsc]
  split <;> rfl

/-- What a stalled command answers, whichever of the two it is: the registers depend on the registers alone. -/
theorem State.StalledCall.exec_eq {s : State} {now w0 : Word64} (h : s.StalledCall now w0) (i : Instr) :
    exec i s = .next (s.emitted s.stalledTimestamp (s.sequenceCounter + 1) (stalledTail w0) (textOf i) 1) := by
  obtain ⟨hclock, htake, hle⟩ := h
  obtain ⟨rest, hw⟩ := take_one_iff.1 htake
  have hsc : (countUp (Call.start s)).sequenceCounter = s.sequenceCounter + 1 := countUp_sequenceCounter _
  rw [Machine.exec_eq]
  simp only [runGenerate, hclock, Option.bind_some, generate_stalled hw hle, State.complete, State.finish,
    State.emitted, stalledOut_uuid, hsc, countUp_start_prevTimestamp]

/-- Every answered command lays its result out from the registers it leaves (R105). -/
theorem exec_emitted_of_answered {s : State} (h : s.answered = true) (i : Instr) :
    ∃ pt sc tail draws, exec i s = .next (s.emitted pt sc tail (textOf i) draws) := by
  rw [exec_eq]
  obtain ⟨hno, -⟩ | ⟨-, _, _, _, -, e⟩ | ⟨-, -, _, _, -, e⟩ | ⟨-, -, _, _, -, e⟩ := complete_cases s (textOf i)
  · simp [h] at hno
  all_goals exact ⟨_, _, _, _, congrArg _ e⟩

/-- Settles O27: the result is `layout` of the registers after the command, and reading it back is reading the layout. -/
theorem readingBackGivesTheRegisters : Obligations.ReadingBackGivesTheRegisters := by
  intro i s hans
  obtain ⟨pt, sc, tail, draws, he⟩ := exec_emitted_of_answered hans i
  refine ⟨_, _, he, rfl, ?_, ctrOf_layout pt sc tail, verOf_layout pt sc tail, varOf_layout pt sc tail, ?_⟩
  · simp
  · simp [layout_toNat]

/-! ### The bytes of a result (R71) -/

/-- A byte of a value is a byte of the field it lies in. -/
theorem byteOf_eq_field_byte (u : Uuid) {k start len j : Nat} (hlen : j + 8 ≤ len) (hplace : start + j = 120 - 8 * k) :
    byteOf u k = (u.extractLsb' start len).extractLsb' j 8 := by
  apply BitVec.eq_of_getLsbD_eq
  intro i hi
  have hfield : j + i < len := by omega
  simp only [byteOf, BitVec.getLsbD_extractLsb', hfield, ← hplace, Nat.add_assoc, decide_true, Bool.true_and]

/-- The first six bytes are those of the timestamp field (R74). -/
theorem byteOf_eq_tsOf_byte (u : Uuid) {k : Nat} (hk : k < 6) : byteOf u k = (tsOf u).extractLsb' (40 - 8 * k) 8 :=
  byteOf_eq_field_byte u (by omega) (by omega)

/-- The first nine bytes are those of the result key (R74, R145). -/
theorem byteOf_eq_keyOf_byte (u : Uuid) {k : Nat} (hk : k < 9) : byteOf u k = (keyOf u).extractLsb' (64 - 8 * k) 8 :=
  byteOf_eq_field_byte u (by omega) (by omega)

/-- The last seven bytes are those of the tail (R74). -/
theorem byteOf_eq_tailOf_byte (u : Uuid) {k : Nat} (hk : k < 7) :
    byteOf u (9 + k) = (tailOf u).extractLsb' (48 - 8 * k) 8 :=
  byteOf_eq_field_byte u (by omega) (by omega)

section
variable (pt : Word64) (sc : Counter) (tail : BitVec 56)

theorem byteOf_layout_toNat {k : Nat} (hk : k < 9) :
    (byteOf (layout pt sc tail) k).toNat = (resultKey pt sc).toNat / 2 ^ (64 - 8 * k) % 2 ^ 8 := by
  rw [byteOf_eq_keyOf_byte _ hk, keyOf_layout, BitVec.extractLsb'_toNat, Nat.shiftRight_eq_div_pow]

/-- Bytes 0 to 5 hold the timestamp, most significant byte first (R69, R101). -/
theorem byteOf_layout_timestamp {k : Nat} (hk : k < 6) :
    byteOf (layout pt sc tail) k = pt.extractLsb' (40 - 8 * k) 8 := by
  rw [byteOf_eq_tsOf_byte _ hk, tsOf_layout]
  apply BitVec.eq_of_getLsbD_eq
  intro i hi
  have hfield : 40 - 8 * k + i < 48 := by omega
  simp only [BitVec.getLsbD_extractLsb', BitVec.getLsbD_setWidth, hfield, decide_true, Bool.true_and]

/-- Byte 6 holds the version and the counter's upper four bits (R67, R102). -/
theorem byteOf_layout_six : (byteOf (layout pt sc tail) 6).toNat = 0x70 + sc.toNat / 2 ^ 14 := by
  have hsc := sc.isLt
  have hshift : (resultKey pt sc).toNat / 2 ^ 16 = pt.toNat % 2 ^ 48 * 2 ^ 8 + 0x70 + sc.toNat / 2 ^ 14 := by
    rw [resultKey_toNat]
    omega
  rw [byteOf_layout_toNat pt sc tail (by decide), hshift]
  omega

/-- Byte 7 holds the counter's middle eight bits (R67). -/
theorem byteOf_layout_seven : byteOf (layout pt sc tail) 7 = sc.extractLsb' 6 8 := by
  apply BitVec.eq_of_toNat_eq
  rw [byteOf_layout_toNat pt sc tail (by decide), resultKey_toNat, BitVec.extractLsb'_toNat, Nat.shiftRight_eq_div_pow]
  omega

/-- Byte 8 holds the variant and the counter's lower six bits (R67, R103). -/
theorem byteOf_layout_eight : (byteOf (layout pt sc tail) 8).toNat = 0x80 + sc.toNat % 64 := by
  rw [byteOf_layout_toNat pt sc tail (by decide), resultKey_toNat]
  omega

/-- Bytes 9 to 15 hold the tail, most significant byte first (R105). -/
theorem byteOf_layout_tail {k : Nat} (hk : k < 7) :
    byteOf (layout pt sc tail) (9 + k) = tail.extractLsb' (48 - 8 * k) 8 := by
  rw [byteOf_eq_tailOf_byte _ hk, tailOf_layout]

end

/-- The drawn bytes of a fresh tail, in the order they are laid out: `w0[31:24]` to `w0[63:56]`, then `w1[7:0]` and
`w1[15:8]` (R71). -/
theorem freshTail_byte (w0 w1 : Word64) {k : Nat} (hk : k < 7) :
    (freshTail w0 w1).extractLsb' (48 - 8 * k) 8 =
      if k < 5 then w0.extractLsb' (24 + 8 * k) 8 else w1.extractLsb' (8 * (k - 5)) 8 := by
  apply BitVec.eq_of_getLsbD_eq
  intro i hi
  simp only [freshTail, BitVec.getLsbD_extractLsb', BitVec.getLsbD_cast, BitVec.getLsbD_append]
  interval_cases k <;> interval_cases i <;> simp

/-- The drawn bytes of a stalled tail, in the order they are laid out: `w0[15:8]` to `w0[63:56]` (R71). -/
theorem stalledTail_byte (w0 : Word64) {k : Nat} (hk : k < 7) :
    (stalledTail w0).extractLsb' (48 - 8 * k) 8 = w0.extractLsb' (8 + 8 * k) 8 := by
  apply BitVec.eq_of_getLsbD_eq
  intro i hi
  simp only [stalledTail, BitVec.getLsbD_extractLsb', BitVec.getLsbD_cast, BitVec.getLsbD_append]
  interval_cases k <;> interval_cases i <;> simp

/-- The seed as a number: `w0[2:0]`, `w0[15:8]` and `w0[21:16]` (R97). -/
theorem seedOf_toNat (w0 : Word64) :
    (seedOf w0).toNat =
      w0.toNat % 8 * 2 ^ 14 + w0.toNat / 2 ^ 8 % 256 * 2 ^ 6 + w0.toNat / 2 ^ 16 % 64 := by
  simp only [seedOf, BitVec.toNat_cast, BitVec.toNat_append, BitVec.extractLsb'_toNat, BitVec.toNat_ofNat,
    Nat.shiftRight_eq_div_pow]
  rw [← Nat.shiftLeft_add_eq_or_of_lt (by omega), ← Nat.shiftLeft_add_eq_or_of_lt (by omega),
    ← Nat.shiftLeft_add_eq_or_of_lt (by omega)]
  simp only [Nat.shiftLeft_eq]
  omega

/-- Under the cleared guard bit the seed starts with the lowest three bits drawn (R97). -/
theorem seedOf_high (w0 : Word64) : (seedOf w0).extractLsb' 14 3 = w0.extractLsb' 0 3 := by
  have hshift : (seedOf w0).toNat / 2 ^ 14 = w0.toNat % 8 := by
    rw [seedOf_toNat]
    omega
  apply BitVec.eq_of_toNat_eq
  rw [BitVec.extractLsb'_toNat, BitVec.extractLsb'_toNat, Nat.shiftRight_eq_div_pow, Nat.shiftRight_eq_div_pow, hshift]
  omega

/-- The seed's middle byte is the second byte drawn (R97). -/
theorem seedOf_middle (w0 : Word64) : (seedOf w0).extractLsb' 6 8 = w0.extractLsb' 8 8 := by
  have hshift : (seedOf w0).toNat / 2 ^ 6 = w0.toNat % 8 * 2 ^ 8 + w0.toNat / 2 ^ 8 % 256 := by
    rw [seedOf_toNat]
    omega
  apply BitVec.eq_of_toNat_eq
  rw [BitVec.extractLsb'_toNat, BitVec.extractLsb'_toNat, Nat.shiftRight_eq_div_pow, Nat.shiftRight_eq_div_pow, hshift]
  omega

/-- The seed ends with the lower six bits of the third byte drawn (R97). -/
theorem seedOf_low (w0 : Word64) : (seedOf w0).extractLsb' 0 6 = w0.extractLsb' 16 6 := by
  apply BitVec.eq_of_toNat_eq
  rw [BitVec.extractLsb'_toNat, BitVec.extractLsb'_toNat, seedOf_toNat, Nat.shiftRight_zero, Nat.shiftRight_eq_div_pow]
  omega

/-- Settles O28: the registers' bytes are the layout's, in both branches alike, and the drawn bytes are those of the seed
and of the tail. -/
theorem everyByteHasItsSource : Obligations.EveryByteHasItsSource := by
  constructor
  · intro i s now w0 w1 hcall
    have hseed := seedOf_toNat w0
    have htail {k : Nat} (hk : k < 7) := (byteOf_layout_tail now (seedOf w0) _ hk).trans (freshTail_byte w0 w1 hk)
    have h6 := byteOf_layout_six now (seedOf w0) (freshTail w0 w1)
    have h7 := byteOf_layout_seven now (seedOf w0) (freshTail w0 w1)
    have h8 := byteOf_layout_eight now (seedOf w0) (freshTail w0 w1)
    refine ⟨_, _, hcall.exec_eq i, rfl, fun k hk => byteOf_layout_timestamp _ _ _ hk, h6, ?_, ?_, h7, h8, ?_,
      fun k hk => ?_, htail (k := 5) (by decide), htail (k := 6) (by decide)⟩
    · exact h6.trans (by omega)
    · rw [h7, seedOf_middle]
    · exact h8.trans (by omega)
    · rw [htail (by omega), if_pos hk]
  · intro i s now w0 hcall
    refine ⟨_, _, hcall.exec_eq i, rfl, fun k hk => byteOf_layout_timestamp _ _ _ hk, byteOf_layout_six _ _ _,
      byteOf_layout_seven _ _ _, byteOf_layout_eight _ _ _, fun k hk => ?_⟩
    exact (byteOf_layout_tail _ _ _ hk).trans (stalledTail_byte w0 hk)

/-! ### The drawn bits that reach the output (R72) -/

/-- Two fields are equal when they are equal bit by bit. -/
theorem extractLsb'_eq_iff {m : Nat} (a b : BitVec m) (lo n : Nat) :
    a.extractLsb' lo n = b.extractLsb' lo n ↔ ∀ i, lo ≤ i → i < lo + n → a.getLsbD i = b.getLsbD i := by
  simp only [BitVec.eq_of_getLsbD_eq_iff, BitVec.getLsbD_extractLsb']
  constructor
  · intro h i hlo hhi
    have hi := h (i - lo) (by omega)
    rwa [Nat.add_sub_cancel' hlo, decide_eq_true (by omega), Bool.true_and, Bool.true_and] at hi
  · intro h i hi
    rw [h (lo + i) (by omega) (by omega)]

/-- Two runs of whole bytes are equal when they are equal byte by byte. -/
theorem extractLsb'_bytes_eq_iff {m : Nat} (a b : BitVec m) (lo n : Nat) :
    a.extractLsb' lo (8 * n) = b.extractLsb' lo (8 * n) ↔
      ∀ k < n, a.extractLsb' (lo + 8 * k) 8 = b.extractLsb' (lo + 8 * k) 8 := by
  simp only [extractLsb'_eq_iff]
  constructor
  · intro h k hk i hlo hhi
    exact h i (by omega) (by omega)
  · intro h i hlo hhi
    exact h ((i - lo) / 8) (by omega) i (by omega) (by omega)

/-- Two tails are equal when they are equal byte by byte, in the order they are laid out. -/
theorem tail_eq_iff_bytes (a b : BitVec 56) :
    a = b ↔ ∀ k < 7, a.extractLsb' (48 - 8 * k) 8 = b.extractLsb' (48 - 8 * k) 8 := by
  constructor
  · rintro rfl k -
    rfl
  · intro h
    have hbytes : a.extractLsb' 0 (8 * 7) = b.extractLsb' 0 (8 * 7) := by
      rw [extractLsb'_bytes_eq_iff]
      intro k hk
      simpa only [show 48 - 8 * (6 - k) = 0 + 8 * k by omega] using h (6 - k) (by omega)
    simpa only [BitVec.extractLsb'_eq_self] using hbytes

theorem stalledTail_eq_iff (w0 w0' : Word64) :
    stalledTail w0 = stalledTail w0' ↔ w0.extractLsb' 8 56 = w0'.extractLsb' 8 56 := by
  rw [tail_eq_iff_bytes, extractLsb'_bytes_eq_iff w0 w0' 8 7]
  exact forall₂_congr fun k hk => by rw [stalledTail_byte w0 hk, stalledTail_byte w0' hk]

theorem freshTail_eq_iff (w0 w1 w0' w1' : Word64) :
    freshTail w0 w1 = freshTail w0' w1' ↔
      w0.extractLsb' 24 40 = w0'.extractLsb' 24 40 ∧ w1.extractLsb' 0 16 = w1'.extractLsb' 0 16 := by
  rw [tail_eq_iff_bytes, extractLsb'_bytes_eq_iff w0 w0' 24 5, extractLsb'_bytes_eq_iff w1 w1' 0 2]
  constructor
  · intro h
    refine ⟨fun k hk => ?_, fun k hk => ?_⟩
    · have hbyte := h k (by omega)
      rwa [freshTail_byte _ _ (by omega), freshTail_byte _ _ (by omega), if_pos hk, if_pos hk] at hbyte
    · have hbyte := h (5 + k) (by omega)
      rwa [freshTail_byte _ _ (by omega), freshTail_byte _ _ (by omega), if_neg (by omega), if_neg (by omega),
        Nat.add_sub_cancel_left, ← Nat.zero_add (8 * k)] at hbyte
  · rintro ⟨h0, h1⟩ k hk
    rw [freshTail_byte _ _ hk, freshTail_byte _ _ hk]
    split
    · exact h0 k ‹_›
    · simpa only [Nat.zero_add] using h1 (k - 5) (by omega)

/-- Two seeds are equal when the three pieces of the drawn word are that make them (R97). -/
theorem seedOf_eq_iff (w0 w0' : Word64) :
    seedOf w0 = seedOf w0' ↔ w0.extractLsb' 0 3 = w0'.extractLsb' 0 3 ∧ w0.extractLsb' 8 8 = w0'.extractLsb' 8 8 ∧
      w0.extractLsb' 16 6 = w0'.extractLsb' 16 6 := by
  constructor
  · intro h
    rw [← seedOf_high, ← seedOf_middle, ← seedOf_low, h, seedOf_high, seedOf_middle, seedOf_low]
    exact ⟨rfl, rfl, rfl⟩
  · rintro ⟨hhigh, hmiddle, hlow⟩
    rw [seedOf, hhigh, hmiddle, hlow, seedOf]

/-- The bits of `w0` that a fresh result shows (R72): `w0[2:0]`, `w0[15:8]`, `w0[21:16]` and `w0[63:24]`. -/
def freshMask : Word64 := 0xFFFFFFFFFF3FFF07#64

theorem freshMask_getLsbD {i : Nat} (hi : i < 64) :
    freshMask.getLsbD i = true ↔ i < 3 ∨ (8 ≤ i ∧ i < 16) ∨ (16 ≤ i ∧ i < 22) ∨ 24 ≤ i := by
  have hall : ∀ i < 64, freshMask.getLsbD i = true ↔ i < 3 ∨ (8 ≤ i ∧ i < 16) ∨ (16 ≤ i ∧ i < 22) ∨ 24 ≤ i := by
    decide
  exact hall i hi

/-- Two words are equal under a mask when they are equal in its bits. -/
theorem and_eq_and_iff {n : Nat} (a b mask : BitVec n) :
    a &&& mask = b &&& mask ↔ ∀ i < n, mask.getLsbD i = true → a.getLsbD i = b.getLsbD i := by
  rw [BitVec.eq_of_getLsbD_eq_iff]
  refine forall₂_congr fun i hi => ?_
  simp only [BitVec.getLsbD_and]
  cases mask.getLsbD i <;> simp

theorem and_freshMask_eq_iff (w0 w0' : Word64) :
    w0 &&& freshMask = w0' &&& freshMask ↔
      seedOf w0 = seedOf w0' ∧ w0.extractLsb' 24 40 = w0'.extractLsb' 24 40 := by
  rw [seedOf_eq_iff, and_eq_and_iff]
  simp only [extractLsb'_eq_iff]
  constructor
  · intro h
    have hbit (i : Nat) (hi : i < 64) := fun hm => h i hi ((freshMask_getLsbD hi).2 hm)
    exact ⟨⟨fun i _ _ => hbit i (by omega) (by omega), fun i _ _ => hbit i (by omega) (by omega),
      fun i _ _ => hbit i (by omega) (by omega)⟩, fun i _ _ => hbit i (by omega) (by omega)⟩
  · rintro ⟨⟨hhigh, hmid, hlow⟩, htail⟩ i hi hm
    obtain hm | ⟨hlo, hhi⟩ | ⟨hlo, hhi⟩ | hlo := (freshMask_getLsbD hi).1 hm
    · exact hhigh i (by omega) (by omega)
    · exact hmid i hlo hhi
    · exact hlow i hlo hhi
    · exact htail i hlo hi

/-- Two results on one timestamp are equal when their counters and their tails are (R74). -/
theorem layout_eq_iff (pt : Word64) (sc sc' : Counter) (tail tail' : BitVec 56) :
    layout pt sc tail = layout pt sc' tail' ↔ sc = sc' ∧ tail = tail' := by
  constructor
  · intro h
    exact ⟨by simpa only [ctrOf_layout] using congrArg ctrOf h, by simpa only [tailOf_layout] using congrArg tailOf h⟩
  · rintro ⟨rfl, rfl⟩
    rfl

/-- Settles O29: on one timestamp a result shows its counter and its tail, a fresh one thereby the bits of the mask and
`w1[15:0]`, and a stalled one, whose counter the registers give, `w0[63:8]`. -/
theorem drawnBitsThatReachTheOutput : Obligations.DrawnBitsThatReachTheOutput := by
  constructor
  · intro i s s' now w0 w1 w0' w1' hcall hcall'
    refine ⟨_, _, _, _, hcall.exec_eq i, hcall'.exec_eq i, rfl, rfl, ?_⟩
    change _ ↔ w0 &&& freshMask = w0' &&& freshMask ∧ _
    rw [layout_eq_iff, freshTail_eq_iff, and_freshMask_eq_iff, and_assoc]
  · intro i s s' now now' w0 w0' hcall hcall' hpt hsc
    refine ⟨_, _, _, _, hcall.exec_eq i, hcall'.exec_eq i, rfl, rfl, ?_⟩
    have hts : s'.stalledTimestamp = s.stalledTimestamp := by
      rw [State.stalledTimestamp, State.stalledTimestamp, hpt, hsc]
    rw [hts, ← hsc, layout_eq_iff, stalledTail_eq_iff]
    exact and_iff_right rfl

end Sys2Proof.Machine
end

section
/-! PROOF. The generate family (`40_generate.md`): the comparator (section 2), the random filler (section 3), the two
units (sections 4 and 5), the packer (section 6), and the closed form of a command with what every step keeps
(section 7). -/

namespace Sys2Proof.Machine

/-! ### The closed form of a command (R105, R106) -/

/-- A finished command leaves its response matched with the registers it leaves (R105, R130, R145). -/
theorem State.emitted_responseMatches (s : State) (pt : Word64) (sc : Counter) (tail : BitVec 56) (i : Instr)
    {draws : Nat} (hdraws : draws = 1 ∨ draws = 2) : (s.emitted pt sc tail (textOf i) draws).ResponseMatches := by
  rintro r hr
  obtain rfl := Option.some.inj hr
  refine ⟨keyOf_layout pt sc tail, ?_, hdraws⟩
  cases i with
  | gen => exact .inl rfl
  | gens => exact .inr rfl

/-- Where no response is valid there is nothing to match. -/
theorem State.responseMatches_of_no_response {s : State} (h : s.response = none) : s.ResponseMatches := by
  intro r hr
  simp [h] at hr

/-- Settles O43: a step that finishes no command leaves no response valid, and a finished one lays its response out from
the registers it leaves, in all three branches. -/
theorem stepKeepsTheResponseMatched : Obligations.StepKeepsTheResponseMatched := by
  rintro s t - h
  obtain ⟨-, hstep⟩ | ⟨-, hstep⟩ | ⟨op, -, hstep⟩ := step_cases s <;>
    obtain rfl := Host.Outcome.next.inj (hstep.symm.trans h)
  case inl => exact State.responseMatches_of_no_response s.idleStep_response
  case inr.inl => exact State.responseMatches_of_no_response s.resetStep_response
  case inr.inr =>
    obtain ⟨-, e⟩ | ⟨-, _, _, _, -, e⟩ | ⟨-, -, _, _, -, e⟩ | ⟨-, -, _, _, -, e⟩ :=
      complete_cases s (textOf (decode op)) <;> rw [e]
    · exact State.responseMatches_of_no_response s.waitStep_response
    · exact s.emitted_responseMatches _ _ _ _ (.inr rfl)
    · exact s.emitted_responseMatches _ _ _ _ (.inl rfl)
    · exact s.emitted_responseMatches _ _ _ _ (.inl rfl)

/-- An answered command is fresh or stalled (R92, R95). -/
theorem State.call_of_answered {s : State} (h : s.answered = true) :
    (∃ now w0 w1, s.FreshCall now w0 w1) ∨ ∃ now w0, s.StalledCall now w0 := by
  obtain ⟨hno, -⟩ | ⟨-, now, w0, w1, hcall, -⟩ | ⟨-, -, now, w0, hcall, -⟩ | ⟨-, -, now, w0, hcall, -⟩ :=
    complete_cases s fun _ => none
  · simp [h] at hno
  · exact .inl ⟨now, w0, w1, hcall⟩
  · exact .inr ⟨now, w0, hcall⟩
  · exact .inr ⟨now, w0, hcall⟩

theorem wordsNeeded_of_fresh {now prev : Word64} (h : prev.toNat < now.toNat) : wordsNeeded now prev = 2 :=
  if_pos ((fresh_iff now prev).2 h)

theorem wordsNeeded_of_stalled {now prev : Word64} (h : now.toNat ≤ prev.toNat) : wordsNeeded now prev = 1 := by
  rw [wordsNeeded, (stalled_iff now prev).2 h]
  rfl

/-- `prev_timestamp` after a stalled command comes from the two registers alone. -/
theorem State.stalledTimestamp_congr {s s' : State} (hpt : s.prevTimestamp = s'.prevTimestamp)
    (hsc : s.sequenceCounter = s'.sequenceCounter) : s.stalledTimestamp = s'.stalledTimestamp := by
  rw [State.stalledTimestamp, State.stalledTimestamp, hpt, hsc]

/-- Settles O8: the second state makes the same call as the first, and the closed form of a call names the registers, the
sample and the drawn words only. -/
theorem commandIsFunctionOfItsInputs : Obligations.CommandIsFunctionOfItsInputs := by
  intro i s s' hpt hsc hclock hans hwords
  obtain ⟨now, w0, w1, hcall⟩ | ⟨now, w0, hcall⟩ := State.call_of_answered hans
  · have ⟨hnow, htake, hlt⟩ := hcall
    have hdrawn := hwords now hnow
    rw [wordsNeeded_of_fresh hlt] at hdrawn
    have hcall' : s'.FreshCall now w0 w1 := ⟨hclock.symm.trans hnow, hdrawn.symm.trans htake, hpt ▸ hlt⟩
    exact ⟨_, _, _, hcall.exec_eq i, hcall'.exec_eq i, rfl, rfl, rfl, rfl⟩
  · have ⟨hnow, htake, hle⟩ := hcall
    have hdrawn := hwords now hnow
    rw [wordsNeeded_of_stalled hle] at hdrawn
    have hcall' : s'.StalledCall now w0 := ⟨hclock.symm.trans hnow, hdrawn.symm.trans htake, hpt ▸ hle⟩
    have hexec' := hcall'.exec_eq i
    rw [← State.stalledTimestamp_congr hpt hsc, ← hsc] at hexec'
    exact ⟨_, _, _, hcall.exec_eq i, hexec', rfl, rfl, rfl, rfl⟩

theorem counter_eq_ctrMax_iff (c : Counter) : c = Config.ctrMax ↔ c.toNat = 0x3FFFF :=
  BitVec.toNat_inj.symm

/-- The counter's top, counted up, is 0 (R98). -/
theorem ctrMax_add_one : Config.ctrMax + 1 = 0 := rfl

section
variable {s : State}

theorem State.stalledTimestamp_of_rollover (h : s.sequenceCounter = Config.ctrMax) :
    s.stalledTimestamp = s.prevTimestamp + 1 :=
  if_pos h

theorem State.stalledTimestamp_of_no_rollover (h : s.sequenceCounter ≠ Config.ctrMax) :
    s.stalledTimestamp = s.prevTimestamp :=
  if_neg h

end

/-- Settles O9: the fresh case is the closed form of a fresh call, and the two stalled cases are that of a stalled call
below the counter's top and at it. -/
theorem genClosedForm : Obligations.GenClosedForm := by
  refine ⟨fun s now w0 w1 hcall => hcall.exec_eq .gen, fun s now w0 hcall hlt => ?_, fun s now w0 hcall htop => ?_⟩
  · have hsc : s.sequenceCounter ≠ Config.ctrMax := fun h => hlt.ne ((counter_eq_ctrMax_iff _).1 h)
    rw [hcall.exec_eq .gen, State.stalledTimestamp_of_no_rollover hsc]
    rfl
  · have hsc := (counter_eq_ctrMax_iff _).2 htop
    rw [hcall.exec_eq .gen, State.stalledTimestamp_of_rollover hsc, hsc, ctrMax_add_one]
    rfl

/-- Settles O19: below the counter's top the counter grows by one; at its top 0 follows and the logical clock, which was
no earlier than the sample, grows by one. -/
theorem stalledCommandAddsOneToTheKey : Obligations.StalledCommandAddsOneToTheKey := by
  intro i s now w0 hcall
  refine ⟨_, hcall.exec_eq i, ?_, ?_⟩
  · simp only [State.key, State.emitted_prevTimestamp, State.emitted_sequenceCounter]
    by_cases hsc : s.sequenceCounter = Config.ctrMax
    · have htop := (counter_eq_ctrMax_iff _).1 hsc
      rw [State.stalledTimestamp_of_rollover hsc]
      bv_omega
    · have hbelow := mt (counter_eq_ctrMax_iff _).2 hsc
      rw [State.stalledTimestamp_of_no_rollover hsc]
      bv_omega
  · intro hsc hnowrap
    obtain ⟨-, -, hle⟩ := hcall
    rw [State.emitted_prevTimestamp, State.stalledTimestamp_of_rollover hsc]
    bv_omega

/-! ### The comparator (R92, R93) -/

/-- Settles O13: `fresh` is the comparison of the unsigned values, and `generate` is one unit or the other by it. -/
theorem comparatorChoosesTheBranch : Obligations.ComparatorChoosesTheBranch := by
  refine fun now c => ⟨fresh_iff _ _, fun hlt => ?_, fun hle => ?_⟩
  · rw [generate, if_pos ((fresh_iff _ _).2 hlt)]
  · rw [generate, (stalled_iff _ _).2 hle]
    rfl

/-- Settles O14: the first three cases have the sample at or below `prev_timestamp`, the last one above it. -/
theorem equalityRegressionAndZeroAreStalled : Obligations.EqualityRegressionAndZeroAreStalled := by
  refine ⟨fun now prev h => ?_, fun now prev h => ?_, fun prev => ?_, fun now h => ?_⟩
  · exact (stalled_iff _ _).2 (h ▸ le_rfl)
  · exact (stalled_iff _ _).2 h.le
  · exact (stalled_iff _ _).2 (Nat.zero_le _)
  · exact (fresh_iff _ _).2 h

/-! ### The random filler (R94, R95) -/

theorem laneByte_eq_extractLsb' (w : Word64) (k : Nat) : laneByte w k = w.extractLsb' (8 * k) 8 := by
  apply BitVec.eq_of_getLsbD_eq
  intro i _
  rw [laneByte_getLsbD, BitVec.getLsbD_extractLsb']

/-- What the filler has done between its bytes `lo` and `hi`, on the words `ws` that stood before byte 0: lane `j mod 8`
of word `j div 8` is in `u[base + j]`, word `j div 8` is drawn for every such `j`, and the rest is left alone (R94). -/
structure Call.Filled (ws : List Word64) (base lo hi : Nat) (c c' : Call) : Prop where
  byte : ∀ j, lo ≤ j → j < hi → c'.get (base + j) = laneByte (ws.getD (j / 8) 0) (j % 8)
  other : ∀ a, a < base + lo ∨ base + hi ≤ a → c'.get a = c.get a
  rngLeft : c'.rngLeft = ws.drop ((hi + 7) / 8)
  rngTaken : c'.rngTaken = c.rngTaken + ((hi + 7) / 8 - (lo + 7) / 8)
  prevTimestamp : c'.prevTimestamp = c.prevTimestamp
  sequenceCounter : c'.sequenceCounter = c.sequenceCounter

/-- The call once word `k div 8` is there for byte `k` of the filler, on the words `ws` (R94). -/
def Call.withWordFor (c : Call) (ws : List Word64) (k : Nat) : Call :=
  { c with rngLeft := ws.drop ((k + 8) / 8), rngTaken := c.rngTaken + ((k + 8) / 8 - (k + 7) / 8) }

/-- One round of the filler's loop: byte `k` comes from word `k div 8`, which is drawn now exactly when `k` is a multiple
of 8 (R94). -/
theorem fillFrom_succ {ws : List Word64} (base n : Nat) {k : Nat} {w : Word64} {c : Call}
    (hleft : c.rngLeft = ws.drop ((k + 7) / 8)) (hw : k % 8 ≠ 0 → w = ws.getD (k / 8) 0) (hlen : k / 8 < ws.length) :
    fillFrom base k (n + 1) w c =
      fillFrom base (k + 1) n (ws.getD (k / 8) 0)
        ((c.withWordFor ws k).put (base + k) (laneByte (ws.getD (k / 8) 0) (k % 8))) := by
  rw [fillFrom]
  by_cases hk : k % 8 = 0
  · have hdrawn : (k + 7) / 8 = k / 8 := by omega
    have hnext : (k + 8) / 8 = k / 8 + 1 := by omega
    have hdraw : c.rngDraw = some (ws.getD (k / 8) 0, c.withWordFor ws k) := by
      rw [Call.rngDraw, hleft, hdrawn, List.drop_eq_getElem_cons hlen, Call.withWordFor, hnext, hdrawn,
        List.getD_eq_getElem _ _ hlen, Nat.add_sub_cancel_left]
    rw [if_pos hk, hdraw]
  · have hsame : (k + 8) / 8 = (k + 7) / 8 := by omega
    have hkeep : c.withWordFor ws k = c := by
      rw [Call.withWordFor, hsame, Nat.sub_self, ← hleft]
      rfl
    rw [if_neg hk, hkeep, hw hk]

/-- The filler's loop from byte `k` on, where the words suffice (R94). -/
theorem fillFrom_filled {ws : List Word64} (base : Nat) {n k : Nat} {w : Word64} {c : Call}
    (hleft : c.rngLeft = ws.drop ((k + 7) / 8)) (hw : k % 8 ≠ 0 → w = ws.getD (k / 8) 0)
    (hlen : (k + n + 7) / 8 ≤ ws.length) :
    ∃ c', fillFrom base k n w c = some c' ∧ Call.Filled ws base k (k + n) c c' := by
  induction n generalizing k w c with
  | zero => exact ⟨c, rfl, by omega, fun _ _ => rfl, hleft, by simp, rfl, rfl⟩
  | succ n ih =>
    rw [fillFrom_succ base n hleft hw (by omega)]
    obtain ⟨c', hrun, h⟩ := ih (k := k + 1) (w := ws.getD (k / 8) 0)
      (c := (c.withWordFor ws k).put (base + k) (laneByte (ws.getD (k / 8) 0) (k % 8)))
      rfl (fun hk => by rw [show (k + 1) / 8 = k / 8 by omega]) (by omega)
    rw [show k + 1 + n = k + (n + 1) by omega] at h
    refine ⟨c', hrun, fun j hlo hhi => ?_, fun a ha => ?_, h.rngLeft, ?_, h.prevTimestamp, h.sequenceCounter⟩
    · obtain rfl | hlt := hlo.eq_or_lt
      · rw [h.other _ (.inl (by omega)), Call.get_put_same]
      · exact h.byte j hlt hhi
    · rw [h.other a (by omega), Call.get_put_other _ _ (by omega)]
      rfl
    · have htaken : (c.withWordFor ws k).rngTaken = c.rngTaken + ((k + 8) / 8 - (k + 7) / 8) := rfl
      rw [h.rngTaken, Call.put_rngTaken, htaken]
      omega

/-- `FillRandom` as a whole, where the words suffice (R94). -/
theorem fillRandom_filled (base : Nat) {n : Nat} {c : Call} (hlen : (n + 7) / 8 ≤ c.rngLeft.length) :
    ∃ c', fillRandom base n c = some c' ∧ Call.Filled c.rngLeft base 0 n c c' := by
  simpa only [Nat.zero_add, fillRandom] using
    fillFrom_filled base (n := n) (k := 0) (w := 0#64) (c := c) rfl (absurd rfl) (by rwa [Nat.zero_add])

/-- Settles O15: the loop from byte 0 on, the words being those that stand before it. -/
theorem fillRandomWritesByteLanes : Obligations.FillRandomWritesByteLanes := by
  intro base n c _ hlen
  obtain ⟨c', hrun, h⟩ := fillRandom_filled base hlen
  refine ⟨c', hrun, fun k hk => ?_, h.other, h.rngTaken, h.rngLeft, h.prevTimestamp, h.sequenceCounter⟩
  rw [h.byte k (Nat.zero_le k) hk, laneByte_eq_extractLsb']

/-! ### The fresh unit (R96, R97) -/

theorem clearGuard_eq (b : Byte) : clearGuard b = b &&& 0xF7#8 := rfl

/-- The gathered counter as a number: the formula of the seed (R96). -/
theorem gatherCounter_toNat (b6 b7 b8 : Byte) :
    (gatherCounter b6 b7 b8).toNat = b6.toNat % 16 * 2 ^ 14 + b7.toNat * 2 ^ 6 + b8.toNat % 64 := by
  have hbits : gatherCounter b6 b7 b8 = (b6.extractLsb' 0 4 ++ b7 ++ b8.extractLsb' 0 6).cast rfl := by
    apply BitVec.eq_of_getLsbD_eq
    intro i hi
    simp only [gatherCounter_getLsbD, BitVec.getLsbD_cast, BitVec.getLsbD_append, BitVec.getLsbD_extractLsb']
    interval_cases i <;> simp
  simp only [hbits, BitVec.toNat_cast, BitVec.toNat_append, BitVec.extractLsb'_toNat, Nat.shiftRight_zero]
  rw [← Nat.shiftLeft_add_eq_or_of_lt (by omega), ← Nat.shiftLeft_add_eq_or_of_lt (by omega)]
  simp only [Nat.shiftLeft_eq]
  omega

/-- Settles O16: ten bytes of the two words are filled in, byte 6 is cleared after them, and the seed is gathered from
the bytes as they then stand. -/
theorem freshUnitSeedsFromTheClearedBytes : Obligations.FreshUnitSeedsFromTheClearedBytes := by
  intro now c w0 w1 rest hrng
  obtain ⟨c₁, hfill, h⟩ := fillRandom_filled 6 (n := 10) (c := c) (by simp [hrng])
  rw [hrng] at h
  have hlane0 (k : Nat) (hk : k < 8) : c₁.get (6 + k) = w0.extractLsb' (8 * k) 8 := by
    rw [h.byte k (Nat.zero_le k) (by omega), Nat.div_eq_of_lt hk, Nat.mod_eq_of_lt hk, laneByte_eq_extractLsb']
    rfl
  have hlane1 (k : Nat) (hk : k < 2) : c₁.get (14 + k) = w1.extractLsb' (8 * k) 8 := by
    have hbyte := h.byte (8 + k) (by omega) (by omega)
    rw [show (8 + k) / 8 = 1 by omega, show (8 + k) % 8 = k by omega, laneByte_eq_extractLsb', ← Nat.add_assoc] at hbyte
    exact hbyte
  have hother (a : Nat) (ha : a ≠ 6) : (c₁.put 6 (clearGuard (c₁.get 6))).get a = c₁.get a := Call.get_put_other _ _ ha
  rw [freshUnit, hfill]
  refine ⟨_, rfl, rfl, ?_, fun k hlo hhi => ?_, ?_, ?_, gatherCounter_toNat _ _ _,
    fun a ha => ?_, h.rngTaken⟩
  · exact (Call.get_put_same _ _ _).trans (by rw [clearGuard_eq, hlane0 0 (by decide)])
  · exact (hother (6 + k) (by omega)).trans (hlane0 k hhi)
  · exact (hother 14 (by decide)).trans (hlane1 0 (by decide))
  · exact (hother 15 (by decide)).trans (hlane1 1 (by decide))
  · exact (hother a (by omega)).trans (h.other a (by omega))

/-- The guard bit of a seed is clear (R96, R97). -/
theorem seedOf_guard (w0 : Word64) : (seedOf w0).getLsbD 17 = false := by
  rw [← gather_freshBytes]
  exact gatherCounter_clearGuard_top _ _ _

/-- Settles O17: the counter after a fresh command is the seed, and two words equal under the mask have one seed and one
tail. -/
theorem seedIsTakenFromTheDrawnWord : Obligations.SeedIsTakenFromTheDrawnWord := by
  intro i s now w0 w1 hcall
  refine ⟨_, hcall.exec_eq i, seedOf_guard w0, seedOf_high w0, seedOf_middle w0, seedOf_low w0,
    counter_toNat_le_of_guard_clear (seedOf_guard w0), ?_, ?_, fun s' w0' hcall' hmask => ?_⟩
  · rintro rfl
    rfl
  · rintro rfl
    rfl
  · obtain ⟨hseed, htail⟩ := (and_freshMask_eq_iff w0' w0).1 hmask
    have htails : freshTail w0' w1 = freshTail w0 w1 := (freshTail_eq_iff _ _ _ _).2 ⟨htail, rfl⟩
    refine ⟨_, hcall'.exec_eq i, hseed, ?_⟩
    rw [State.emitted_response, State.emitted_response, hseed, htails]

/-! ### The stalled unit (R98, R100) -/

section
variable (c : Counter)

theorem counterHigh_toNat : (counterHigh c).toNat = c.toNat / 2 ^ 14 := by
  have := c.isLt
  simp only [counterHigh, BitVec.toNat_setWidth, BitVec.toNat_ushiftRight, Nat.shiftRight_eq_div_pow]
  omega

theorem counterMid_eq_extractLsb' : counterMid c = c.extractLsb' 6 8 := by
  apply BitVec.eq_of_getLsbD_eq
  intro i _
  rw [counterMid_getLsbD, BitVec.getLsbD_extractLsb']

theorem counterMid_toNat : (counterMid c).toNat = c.toNat / 2 ^ 6 % 256 := by
  rw [counterMid_eq_extractLsb', BitVec.extractLsb'_toNat, Nat.shiftRight_eq_div_pow]

theorem counterLow_toNat : (counterLow c).toNat = c.toNat % 64 := by
  have hbits : counterLow c = (c.extractLsb' 0 6).setWidth 8 := by
    apply BitVec.eq_of_getLsbD_eq
    intro i hi
    simp only [counterLow_getLsbD, BitVec.getLsbD_setWidth, BitVec.getLsbD_extractLsb', hi, Nat.zero_add, decide_true,
      Bool.true_and]
  rw [hbits, BitVec.toNat_setWidth, BitVec.extractLsb'_toNat, Nat.shiftRight_zero]
  omega

end

/-- `FillCounter` is one filling of bytes 8 to 15 with the counter laid over bytes 6, 7 and 8 (R100). -/
theorem fillCounter_filled {c : Call} {w0 : Word64} {rest : List Word64} (hrng : c.rngLeft = w0 :: rest) :
    ∃ c₁, Call.Filled (w0 :: rest) 8 0 8 c c₁ ∧
      fillCounter c = some (((c₁.put 6 (counterHigh c.sequenceCounter)).put 7 (counterMid c.sequenceCounter)).put 8
        (counterLow c.sequenceCounter)) := by
  obtain ⟨c₁, hfill, h⟩ := fillRandom_filled 8 (n := 8) (c := c) (by simp [hrng])
  refine ⟨c₁, hrng ▸ h, ?_⟩
  rw [fillCounter, hfill, ← h.sequenceCounter]
  rfl

/-- Settles O20: the counter's three pieces are written last, and the seven bytes after them stay as filled. -/
theorem fillCounterScattersTheCounter : Obligations.FillCounterScattersTheCounter := by
  intro c w0 rest hrng
  obtain ⟨c₁, h, hrun⟩ := fillCounter_filled hrng
  refine ⟨_, hrun, ?_, ?_, ?_, fun k hlo hhi => ?_, fun a ha => ?_, h.rngTaken, h.prevTimestamp, h.sequenceCounter⟩
  · simp [counterHigh_toNat]
  · simp [counterMid_toNat]
  · simp [counterLow_toNat]
  · simp (disch := omega) only [Call.get_put_other]
    rw [h.byte k (Nat.zero_le k) hhi, Nat.div_eq_of_lt hhi, Nat.mod_eq_of_lt hhi, laneByte_eq_extractLsb']
    rfl
  · simp (disch := omega) only [Call.get_put_other]
    exact h.other a (by omega)

theorem countUp_rngLeft (c : Call) : (countUp c).rngLeft = c.rngLeft := by
  rw [countUp_eq]
  split <;> rfl

theorem countUp_prevTimestamp (c : Call) :
    (countUp c).prevTimestamp = if c.sequenceCounter = Config.ctrMax then c.prevTimestamp + 1 else c.prevTimestamp := by
  rw [countUp_eq]
  split <;> rfl

/-- Settles O18: counting up sets the registers, by the rollover or without it, and filling the counter in keeps them. -/
theorem stalledUnitCountsAndBorrows : Obligations.StalledUnitCountsAndBorrows := by
  intro c w0 rest hrng
  obtain ⟨c₁, h, hrun⟩ := fillCounter_filled ((countUp_rngLeft c).trans hrng)
  rw [stalledUnit, hrun]
  refine ⟨_, _, rfl, h.prevTimestamp.symm, fun hle => ?_, fun hgt => ?_⟩ <;>
    simp only [Call.put_prevTimestamp, Call.put_sequenceCounter, h.prevTimestamp, h.sequenceCounter,
      countUp_sequenceCounter, countUp_prevTimestamp]
  · have hbelow : c.sequenceCounter ≠ Config.ctrMax := fun h => by
      have := (counter_eq_ctrMax_iff _).1 h
      omega
    exact ⟨by bv_omega, if_neg hbelow⟩
  · have htop : c.sequenceCounter = Config.ctrMax := (counter_eq_ctrMax_iff _).2 (by omega)
    rw [if_pos htop, htop]
    exact ⟨ctrMax_add_one, BitVec.toNat_add _ _⟩

/-! ### The packer (R101, R102, R103) -/

theorem timestampByte_eq_extractLsb' (t : Word64) (k : Nat) : timestampByte t k = t.extractLsb' (40 - 8 * k) 8 := by
  apply BitVec.eq_of_getLsbD_eq
  intro i _
  rw [timestampByte_getLsbD, BitVec.getLsbD_extractLsb']

theorem timestampByte_toNat (t : Word64) (k : Nat) :
    (timestampByte t k).toNat = t.toNat / 2 ^ (40 - 8 * k) % 256 := by
  rw [timestampByte_eq_extractLsb', BitVec.extractLsb'_toNat, Nat.shiftRight_eq_div_pow]

/-- The first `n` rounds of `PackTimestamp` write bytes 0 to `n - 1` of the buffer and nothing else (R101). -/
theorem packTimestamp_rounds (t : Word64) (c : Call) (n : Nat) :
    (∀ k, k < n → ((List.range n).foldl (fun c i => c.put i (timestampByte t i)) c).get k = timestampByte t k) ∧
    (∀ a, n ≤ a → ((List.range n).foldl (fun c i => c.put i (timestampByte t i)) c).get a = c.get a) := by
  induction n with
  | zero => exact ⟨fun k hk => absurd hk k.not_lt_zero, fun _ _ => rfl⟩
  | succ n ih =>
    obtain ⟨hwritten, hother⟩ := ih
    simp only [List.range_succ, List.foldl_append, List.foldl_cons, List.foldl_nil]
    refine ⟨fun k hk => ?_, fun a ha => ?_⟩
    · obtain hlt | rfl := Nat.lt_succ_iff_lt_or_eq.1 hk
      · rw [Call.get_put_other _ _ hlt.ne, hwritten k hlt]
      · rw [Call.get_put_same]
    · rw [Call.get_put_other _ _ (by omega), hother a (by omega)]

/-- Six bytes of 48 bits, most significant first, are the number (R69). -/
theorem sum_of_six_bytes {n : Nat} (h : n < 2 ^ 48) :
    n / 2 ^ 40 % 256 * 2 ^ 40 + n / 2 ^ 32 % 256 * 2 ^ 32 + n / 2 ^ 24 % 256 * 2 ^ 24 + n / 2 ^ 16 % 256 * 2 ^ 16 +
      n / 2 ^ 8 % 256 * 2 ^ 8 + n % 256 = n := by
  omega

/-- Settles O21: six rounds write the six bytes, and below `2^48` these are the whole number. -/
theorem packTimestampIsBigEndian : Obligations.PackTimestampIsBigEndian := by
  intro t c
  obtain ⟨hwritten, hother⟩ := packTimestamp_rounds t c 6
  have hbyte (k : Nat) (hk : k < 6) : ((packTimestamp t c).get k).toNat = t.toNat / 2 ^ (40 - 8 * k) % 256 :=
    (congrArg BitVec.toNat (hwritten k hk)).trans (timestampByte_toNat t k)
  refine ⟨hbyte, hother, rfl, rfl, fun hlt => ?_⟩
  rw [hbyte 0 (by decide), hbyte 1 (by decide), hbyte 2 (by decide), hbyte 3 (by decide), hbyte 4 (by decide),
    hbyte 5 (by decide), Nat.pow_zero, Nat.div_one]
  exact sum_of_six_bytes hlt

/-- Settles O22: each packer reads one byte and writes the same byte back. -/
theorem packVersionAndVariantKeepTheOtherBits : Obligations.PackVersionAndVariantKeepTheOtherBits := fun _ =>
  ⟨Call.get_put_same _ _ _, fun _ ha => Call.get_put_other _ _ ha,
   Call.get_put_same _ _ _, fun _ ha => Call.get_put_other _ _ ha⟩

end Sys2Proof.Machine
end

section
/-! PROOF. The text form (`41_string_form.md`): GENS beside GEN (R130), the digits of a text (R131), the text on the
port (R132), and what a text says of its value (R133). -/

namespace Sys2Proof.Machine

/-! ### GENS is one GEN with its text (R130) -/

/-- Settles O11: both commands end the same call, and a call that ends without a response has none to add a text to. -/
theorem gensIsOneGenWithItsText : Obligations.GensIsOneGenWithItsText := by
  intro s t r hgen hr
  rw [exec_eq] at hgen ⊢
  obtain rfl := Host.Outcome.next.inj hgen
  cases hcall : runGenerate s with
  | none => simp [hcall, State.complete] at hr
  | some c =>
    rw [hcall] at hr
    obtain rfl := Option.some.inj hr
    rfl

/-- Settles O10: each case is the same case of GEN, with the text of its result added. -/
theorem gensClosedForm : Obligations.GensClosedForm := by
  obtain ⟨hfresh, hcount, hroll⟩ := genClosedForm
  exact ⟨fun s now w0 w1 hcall => gensIsOneGenWithItsText s _ _ (hfresh s now w0 w1 hcall) rfl,
    fun s now w0 hcall hlt => gensIsOneGenWithItsText s _ _ (hcount s now w0 hcall hlt) rfl,
    fun s now w0 hcall htop => gensIsOneGenWithItsText s _ _ (hroll s now w0 hcall htop) rfl⟩

/-! ### One digit (R131, R132) -/

/-- The code of a digit: `0x30` to `0x39`, then `0x61` to `0x66`. -/
theorem hexDigit_toNat (n : BitVec 4) :
    (hexDigit n).toNat = if n.toNat < 10 then 0x30 + n.toNat else 0x57 + n.toNat := by
  revert n
  decide

theorem hexDigit_toNat_mem (n : BitVec 4) :
    (0x30 ≤ (hexDigit n).toNat ∧ (hexDigit n).toNat ≤ 0x39) ∨
    (0x61 ≤ (hexDigit n).toNat ∧ (hexDigit n).toNat ≤ 0x66) := by
  have hn := n.isLt
  rw [hexDigit_toNat]
  split
  · left
    omega
  · right
    omega

@[simp] theorem nibbleOf_hexDigit (n : BitVec 4) : nibbleOf (hexDigit n) = some n := by
  revert n
  decide

theorem hexDigit_injective : Function.Injective hexDigit := fun m n h => by
  simpa using congrArg nibbleOf h

/-- The codes of the digits sort as the nibbles do. -/
theorem hexDigit_lt_iff (m n : BitVec 4) : hexDigit m < hexDigit n ↔ m < n := by
  rw [BitVec.lt_def]
  change (hexDigit m).toNat < (hexDigit n).toNat ↔ _
  rw [hexDigit_toNat, hexDigit_toNat]
  split <;> split <;> omega

/-! ### The digits of a text, nibble by nibble (R131) -/

/-- A field of a field is a field of the whole. -/
theorem extractLsb'_extractLsb'_of_add_le {w start len j n : Nat} (x : BitVec w) (h : j + n ≤ len) :
    (x.extractLsb' start len).extractLsb' j n = x.extractLsb' (start + j) n := by
  apply BitVec.eq_of_getLsbD_eq
  intro i hi
  have hfield : j + i < len := by omega
  simp only [BitVec.getLsbD_extractLsb', hfield, Nat.add_assoc, decide_true, Bool.true_and]

theorem byteOf_high_nibble (u : Uuid) {k : Nat} (hk : k < 16) :
    (byteOf u k).extractLsb' 4 4 = u.extractLsb' (4 * (31 - 2 * k)) 4 := by
  rw [byteOf, extractLsb'_extractLsb'_of_add_le u (by decide)]
  congr 1
  omega

theorem byteOf_low_nibble (u : Uuid) {k : Nat} (hk : k < 16) :
    (byteOf u k).extractLsb' 0 4 = u.extractLsb' (4 * (31 - (2 * k + 1))) 4 := by
  rw [byteOf, extractLsb'_extractLsb'_of_add_le u (by decide)]
  congr 1
  omega

theorem flatMap_range_pair {α : Type} (f : Nat → α) (n : Nat) :
    ((List.range n).flatMap fun i => [f (2 * i), f (2 * i + 1)]) = (List.range (2 * n)).map f := by
  induction n with
  | zero => rfl
  | succ n ih => simp [List.range_succ, Nat.mul_succ, ih]

/-- The digits of the low `n` nibbles of a value, the highest of them first. -/
def lowDigits (u : Uuid) (n : Nat) : List Char :=
  (List.range n).map fun j => hexDigit (u.extractLsb' (4 * (n - 1 - j)) 4)

theorem lowDigits_succ (u : Uuid) (n : Nat) :
    lowDigits u (n + 1) = hexDigit (u.extractLsb' (4 * n) 4) :: lowDigits u n := by
  simp [lowDigits, List.range_succ_eq_map, Nat.sub_sub, Nat.add_comm]

/-- The text is the digits of all 32 nibbles. -/
theorem hex32_eq_lowDigits (u : Uuid) : hex32 u = lowDigits u 32 := by
  rw [lowDigits, ← flatMap_range_pair (n := 16), hex32]
  apply List.flatMap_congr
  intro i hi
  have hi : i < 16 := List.mem_range.1 hi
  rw [hexByte, byteOf_high_nibble u hi, byteOf_low_nibble u hi]

@[simp] theorem hex32_length (u : Uuid) : (hex32 u).length = 32 := by
  simp [hex32_eq_lowDigits, lowDigits]

theorem hex32_getElem? (u : Uuid) {j : Nat} (hj : j < 32) :
    (hex32 u)[j]? = some (hexDigit (u.extractLsb' (4 * (31 - j)) 4)) := by
  simp [hex32_eq_lowDigits, lowDigits, hj]

theorem shiftRight_four_setWidth (b : Byte) : (b >>> 4).setWidth 4 = b.extractLsb' 4 4 := rfl

theorem and_low_nibble_setWidth (b : Byte) : (b &&& 0x0F#8).setWidth 4 = b.extractLsb' 0 4 := by
  apply BitVec.eq_of_getLsbD_eq
  intro i hi
  interval_cases i <;> simp

/-- Settles O46: characters `2k` and `2k + 1` are the digits of the two halves of byte `k`, and the 16 digits are
computed. -/
theorem textIsTheHexOfTheBytes : Obligations.TextIsTheHexOfTheBytes := by
  refine ⟨fun u => ⟨hex32_length u, fun k hk => ⟨?_, ?_⟩⟩, by decide⟩
  · rw [hex32_getElem? u (by omega), shiftRight_four_setWidth, byteOf_high_nibble u hk]
  · rw [hex32_getElem? u (by omega), and_low_nibble_setWidth, byteOf_low_nibble u hk]

/-! ### The text on the port (R132) -/

theorem strPort_append_char (cs : List Char) (c : Char) :
    strPort (cs ++ [c]) = (strPort cs <<< 8) ||| (charCode c).setWidth 256 := by
  simp [strPort]

/-- The code appended last stands in the low byte. -/
theorem shiftIn_low_byte (x : Text) (b : Byte) : ((x <<< 8) ||| b.setWidth 256).extractLsb' 0 8 = b := by
  apply BitVec.eq_of_getLsbD_eq
  intro i hi
  have hport : i < 256 := by omega
  simp [hi, hport]

/-- A code appended moves the bytes before it up by one. -/
theorem shiftIn_next_byte (x : Text) (b : Byte) {k : Nat} (hk : k < 31) :
    ((x <<< 8) ||| b.setWidth 256).extractLsb' (8 * (k + 1)) 8 = x.extractLsb' (8 * k) 8 := by
  apply BitVec.eq_of_getLsbD_eq
  intro i hi
  have hbit : 8 * (k + 1) + i = 8 + (8 * k + i) := by omega
  have hport : 8 + (8 * k + i) < 256 := by omega
  have hbyte : 8 * k + i < 256 := by omega
  simp [hi, hbit, hport, hbyte, BitVec.getLsbD_of_ge]

/-- Of up to 32 characters on the port, one with `k` characters after it stands in byte `k` as its code. -/
theorem strPort_extractLsb' {cs : List Char} {j k : Nat} {c : Char} (hlen : cs.length ≤ 32)
    (hjk : j + k + 1 = cs.length) (hc : cs[j]? = some c) : (strPort cs).extractLsb' (8 * k) 8 = charCode c := by
  induction cs using List.reverseRecOn generalizing k with
  | nil => simp at hc
  | append_singleton cs d ih =>
    rw [List.length_append, List.length_singleton] at hlen hjk
    rw [strPort_append_char]
    cases k with
    | zero =>
      obtain rfl : j = cs.length := Nat.succ.inj hjk
      obtain rfl : d = c := by simpa using hc
      exact shiftIn_low_byte _ _
    | succ k =>
      rw [List.getElem?_append_left (by omega)] at hc
      rw [shiftIn_next_byte _ _ (by omega), ih (by omega) (by omega) hc]

theorem strChar_strPort_hex32 (u : Uuid) {j : Nat} {c : Char} (hj : j < 32) (hc : (hex32 u)[j]? = some c) :
    strChar (strPort (hex32 u)) j = charCode c := by
  have hplace : 248 - 8 * j = 8 * (31 - j) := by omega
  have hlen := hex32_length u
  rw [strChar, hplace, strPort_extractLsb' hlen.le (by omega) hc]

/-- Settles O47: the character is a digit, so its code fits in the byte it stands in. -/
theorem textStandsOnThePort : Obligations.TextStandsOnThePort := by
  intro u j hj
  have hc := hex32_getElem? u hj
  have hcode := hexDigit_toNat_mem (u.extractLsb' (4 * (31 - j)) 4)
  refine ⟨_, hc, ?_, hcode⟩
  rw [strChar_strPort_hex32 u hj hc, charCode, BitVec.toNat_ofNat, Nat.mod_eq_of_lt (by omega)]

/-! ### Reading a text back (R133 (a), (b)) -/

/-- The first two characters of a text give its first byte. -/
theorem unhex_hexByte_append (b : Byte) (cs : List Char) : unhex (hexByte b ++ cs) = (unhex cs).map (b :: ·) := by
  have hb : b.extractLsb' 4 4 ++ b.extractLsb' 0 4 = b := BitVec.extractLsb'_append_extractLsb'
  simp only [hexByte, List.cons_append, List.nil_append, unhex, nibbleOf_hexDigit]
  cases unhex cs with
  | none => rfl
  | some bytes => simp [hb]

theorem unhex_flatMap_hexByte (bs : List Byte) : unhex (bs.flatMap hexByte) = some bs := by
  induction bs with
  | nil => rfl
  | cons b bs ih => rw [List.flatMap_cons, unhex_hexByte_append, ih, Option.map_some]

/-- Settles O48: the text is the digits of the list of bytes, and those decode to the list. -/
theorem textDecodesToTheBytes : Obligations.TextDecodesToTheBytes := by
  intro u
  refine ⟨hex32_length u, ?_⟩
  rw [← unhex_flatMap_hexByte ((List.range 16).map (byteOf u)), List.flatMap_map, hex32]

/-! ### The version and the variant in a text (R133 (c)) -/

/-- Character 12 is the digit of the version field (R74). -/
theorem hex32_version (u : Uuid) : (hex32 u)[12]? = some (hexDigit (verOf u)) :=
  hex32_getElem? u (by decide)

/-- Character 16 is the digit of the variant field with the two bits below it (R74). -/
theorem hex32_variant (u : Uuid) : (hex32 u)[16]? = some (hexDigit (varOf u ++ u.extractLsb' 60 2)) := by
  have hsplit : varOf u ++ u.extractLsb' 60 2 = u.extractLsb' 60 4 := by
    rw [← BitVec.extractLsb'_append_extractLsb' (w := 2) (len := 2) (x := u.extractLsb' 60 4),
      extractLsb'_extractLsb'_of_add_le u (by decide), extractLsb'_extractLsb'_of_add_le u (by decide)]
    rfl
  rw [hex32_getElem? u (by decide), hsplit]

theorem hexDigit_variant_mem (x : BitVec 2) : hexDigit (0b10#2 ++ x) ∈ ['8', '9', 'a', 'b'] := by
  revert x
  decide

/-- Settles O49: the result is laid out with version 7 and variant `0b10`, and these are the digits at characters 12 and
16. -/
theorem textShowsVersionAndVariant : Obligations.TextShowsVersionAndVariant := by
  intro s hans
  obtain ⟨pt, sc, tail, draws, he⟩ := exec_emitted_of_answered hans .gens
  have hver := hex32_version (layout pt sc tail)
  have hvar := hex32_variant (layout pt sc tail)
  rw [verOf_layout] at hver
  rw [varOf_layout] at hvar
  exact ⟨_, _, _, he, rfl, rfl, strChar_strPort_hex32 _ (by decide) hver, hver, _, hexDigit_variant_mem _, hvar,
    strChar_strPort_hex32 _ (by decide) hvar⟩

/-! ### The order of the texts (R133 (d)) -/

/-- Two numbers compare by their high parts first, then by their low parts. -/
theorem add_mul_lt_add_mul_iff {p l l' h h' : Nat} (hl : l < p) (hl' : l' < p) :
    l + p * h < l' + p * h' ↔ h < h' ∨ h = h' ∧ l < l' := by
  rcases lt_trichotomy h h' with hlt | rfl | hgt
  · have := Nat.mul_le_mul_left p hlt
    rw [Nat.mul_succ] at this
    omega
  · omega
  · have := Nat.mul_le_mul_left p hgt
    rw [Nat.mul_succ] at this
    omega

/-- The digits of the low `n` nibbles compare as the numbers these nibbles make: the highest nibble decides first. -/
theorem lowDigits_lt_iff (a b : Uuid) (n : Nat) :
    lowDigits a n < lowDigits b n ↔ a.toNat % 16 ^ n < b.toNat % 16 ^ n := by
  induction n with
  | zero => simp [lowDigits, Nat.mod_one]
  | succ n ih =>
    have hnibble (u : Uuid) : (u.extractLsb' (4 * n) 4).toNat = u.toNat / 16 ^ n % 16 := by
      rw [BitVec.extractLsb'_toNat, Nat.shiftRight_eq_div_pow, Nat.pow_mul]
    have hpos : 0 < 16 ^ n := Nat.pow_pos (by decide)
    rw [lowDigits_succ, lowDigits_succ, List.cons_lt_cons_iff, hexDigit_lt_iff, hexDigit_injective.eq_iff, ih,
      BitVec.lt_def, ← BitVec.toNat_inj, hnibble, hnibble, Nat.mod_pow_succ, Nat.mod_pow_succ,
      add_mul_lt_add_mul_iff (Nat.mod_lt _ hpos) (Nat.mod_lt _ hpos)]

/-- Settles O50: a text is the digits of all 32 nibbles, and a value is below `16 ^ 32`. -/
theorem textsSortAsTheValues : Obligations.TextsSortAsTheValues := by
  intro a b
  have ha : a.toNat < 16 ^ 32 := a.isLt
  have hb : b.toNat < 16 ^ 32 := b.isLt
  rw [hex32_eq_lowDigits, hex32_eq_lowDigits, lowDigits_lt_iff, Nat.mod_eq_of_lt ha, Nat.mod_eq_of_lt hb]

end Sys2Proof.Machine
end

section
/-! PROOF. The invariants (`42_invariants.md`): the fixed bits of a result (section 1), the order of states and results
along a run (section 2), and counting, drift and the order across a reset (section 3). -/

namespace Sys2Proof.Machine

/-! ### The version, the variant and the guard bit (R141, R142) -/

/-- The high nibble of byte 6 is the version field (R65). -/
theorem byteOf_six_shiftRight (u : Uuid) : byteOf u 6 >>> 4 = (verOf u).setWidth 8 := by
  apply BitVec.eq_of_getLsbD_eq
  intro i hi
  simp only [byteOf, verOf, BitVec.getLsbD_ushiftRight, BitVec.getLsbD_setWidth, BitVec.getLsbD_extractLsb']
  interval_cases i <;> simp

/-- The top two bits of byte 8 are the variant field (R66). -/
theorem byteOf_eight_shiftRight (u : Uuid) : byteOf u 8 >>> 6 = (varOf u).setWidth 8 := by
  apply BitVec.eq_of_getLsbD_eq
  intro i hi
  simp only [byteOf, varOf, BitVec.getLsbD_ushiftRight, BitVec.getLsbD_setWidth, BitVec.getLsbD_extractLsb']
  interval_cases i <;> simp

theorem and_high_nibble (b : Byte) : b &&& 0xF0#8 = (b >>> 4) <<< 4 := by
  apply BitVec.eq_of_getLsbD_eq
  intro i hi
  interval_cases i <;> simp

theorem and_top_two_bits (b : Byte) : b &&& 0xC0#8 = (b >>> 6) <<< 6 := by
  apply BitVec.eq_of_getLsbD_eq
  intro i hi
  interval_cases i <;> simp

/-- Settles O25: a result is laid out with its version and variant, and bytes 6 and 8 show them in their top bits. -/
theorem everyResultHasVersionAndVariant : Obligations.EveryResultHasVersionAndVariant := by
  intro i s hans
  obtain ⟨pt, sc, tail, draws, he⟩ := exec_emitted_of_answered hans i
  have h6 : byteOf (layout pt sc tail) 6 >>> 4 = 0x7#8 := by
    rw [byteOf_six_shiftRight, verOf_layout]
    rfl
  have h8 : byteOf (layout pt sc tail) 8 >>> 6 = 0b10#8 := by
    rw [byteOf_eight_shiftRight, varOf_layout]
    rfl
  refine ⟨_, _, he, rfl, verOf_layout pt sc tail, varOf_layout pt sc tail, h6, ?_, h8, ?_⟩
  · rw [and_high_nibble, h6]
    rfl
  · rw [and_top_two_bits, h8]
    rfl

/-- The guard bit of a result is bit 17 of its counter (R22, R142). -/
theorem byteOf_layout_guard (pt : Word64) (sc : Counter) (tail : BitVec 56) :
    byteOf (layout pt sc tail) 6 &&& 0x08#8 = if sc.getLsbD 17 then 0x08#8 else 0#8 := by
  have hbit : (byteOf (layout pt sc tail) 6).getLsbD 3 = sc.getLsbD 17 := by
    simp only [byteOf, BitVec.getLsbD_extractLsb', layout_getLsbD, resultKey_getLsbD]
    rfl
  rw [← hbit]
  exact BitVec.and_twoPow _ 3

/-- Settles O26: the guard bit of the result is bit 17 of the counter after the command: a seed, `0x1FFFF + 1`, or 0. -/
theorem guardBitIsClearAfterAFreshCall : Obligations.GuardBitIsClearAfterAFreshCall := by
  refine ⟨fun i s now w0 w1 hcall => ?_, fun i s now w0 hcall hsc => ?_, fun i s now w0 hcall hsc => ?_⟩ <;>
    refine ⟨_, _, hcall.exec_eq i, rfl, ?_⟩
  · have hguard := seedOf_guard w0
    refine ⟨?_, hguard, counter_toNat_le_of_guard_clear hguard⟩
    rw [byteOf_layout_guard, hguard]
    rfl
  · rw [State.emitted_sequenceCounter, byteOf_layout_guard, hsc]
    exact ⟨rfl, rfl⟩
  · rw [State.emitted_sequenceCounter, byteOf_layout_guard, hsc]
    exact ⟨rfl, rfl⟩

/-! ### The state key under a command and a step (R144, R146) -/

section
variable {s t : State}

theorem State.key_lt_iff :
    s.key < t.key ↔ s.prevTimestamp.toNat < t.prevTimestamp.toNat ∨
      (s.prevTimestamp = t.prevTimestamp ∧ s.sequenceCounter.toNat < t.sequenceCounter.toNat) := by
  rw [← BitVec.toNat_inj, ← add_mul_lt_add_mul_iff s.sequenceCounter.isLt t.sequenceCounter.isLt, State.key, State.key]
  omega

theorem State.prevTimestamp_le_of_key_le (h : s.key ≤ t.key) : s.prevTimestamp.toNat ≤ t.prevTimestamp.toNat :=
  Nat.le_of_not_lt fun hlt => Nat.not_lt.2 h (State.key_lt_iff.2 (.inl hlt))

/-- The key stands at its top exactly when both registers do, and then a stalled command wraps (R99, D7). -/
theorem State.key_add_one_lt (hwrap : ¬ (s.prevTimestamp = 0xFFFFFFFFFFFFFFFF#64 ∧ s.sequenceCounter = Config.ctrMax)) :
    s.key + 1 < 2 ^ 82 := by
  by_contra htop
  have hpt := s.prevTimestamp.isLt
  have hsc := s.sequenceCounter.isLt
  rw [State.key] at htop
  refine hwrap ⟨BitVec.eq_of_toNat_eq ?_, (counter_eq_ctrMax_iff _).2 (by omega)⟩
  rw [BitVec.toNat_ofNat]
  omega

/-- A command that does not wrap raises the key: a later sample does, and so does counting (R144). -/
theorem exec_raises_key (hans : s.answered = true)
    (hwrap : ¬ (s.prevTimestamp = 0xFFFFFFFFFFFFFFFF#64 ∧ s.sequenceCounter = Config.ctrMax)) (i : Instr) :
    ∃ t, exec i s = .next t ∧ s.key < t.key := by
  obtain ⟨now, w0, w1, hcall⟩ | ⟨now, w0, hcall⟩ := State.call_of_answered hans
  · have ⟨_, _, hlt⟩ := hcall
    exact ⟨_, hcall.exec_eq i, State.key_lt_iff.2 (.inl hlt)⟩
  · obtain ⟨t, ht, hkey, -⟩ := stalledCommandAddsOneToTheKey i s now w0 hcall
    rw [Nat.mod_eq_of_lt (State.key_add_one_lt hwrap)] at hkey
    exact ⟨t, ht, by omega⟩

/-- A command that does not wrap leaves the logical clock no earlier than its sample (R146). -/
theorem exec_not_behind_sample (hans : s.answered = true)
    (hwrap : ¬ (s.prevTimestamp = 0xFFFFFFFFFFFFFFFF#64 ∧ s.sequenceCounter = Config.ctrMax)) {now : Word64}
    (hclock : s.clockSample = some now) {i : Instr} (ht : exec i s = .next t) :
    now.toNat ≤ t.prevTimestamp.toNat := by
  obtain ⟨now', _, pt, sc, tail, draws, hclock', -, hle, e⟩ := s.complete_not_behind_sample hans hwrap (textOf i)
  obtain rfl := Option.some.inj (hclock'.symm.trans hclock)
  rw [exec_eq, e] at ht
  obtain rfl := Host.Outcome.next.inj ht
  exact hle

theorem step_eq_advance (s : State) : step s = .next (advance s) := by
  obtain ⟨-, h⟩ | ⟨-, h⟩ | ⟨_, -, h⟩ := step_cases s <;> rw [advance_eq h, h]

theorem exec_of_commanded (h : s.Commanded) : ∃ i, exec i s = .next (advance s) := by
  obtain ⟨op, hop⟩ := h
  exact ⟨decode op, (step_of_command hop).symm.trans (step_eq_advance s)⟩

/-- A step that is no reset and runs no command to its end leaves the registers, and no response valid (R62, R162). -/
theorem advance_of_not_completes (hreset : s.request ≠ .reset) (h : ¬ s.Completes) :
    (advance s).key = s.key ∧ (advance s).response = none := by
  obtain ⟨-, hstep⟩ | ⟨hreq, -⟩ | ⟨op, hop, hstep⟩ := step_cases s
  · rw [advance_eq hstep]
    exact ⟨rfl, rfl⟩
  · exact absurd hreq hreset
  · obtain ⟨-, e⟩ | ⟨hans, -⟩ | ⟨hans, -⟩ | ⟨hans, -⟩ := complete_cases s (textOf (decode op))
    · rw [advance_eq hstep, e]
      exact ⟨rfl, rfl⟩
    all_goals exact absurd ⟨⟨op, hop⟩, hans⟩ h

/-- A step that finishes a command and does not wrap raises the key (R144). -/
theorem advance_raises_key (hwrap : ¬ s.Wraps) (h : s.Completes) : s.key < (advance s).key := by
  obtain ⟨i, hi⟩ := exec_of_commanded h.1
  obtain ⟨t, ht, hkey⟩ := exec_raises_key h.2 (fun htop => hwrap ⟨h, htop⟩) i
  obtain rfl := Host.Outcome.next.inj (hi.symm.trans ht)
  exact hkey

end

/-! ### The state key along a run (R144, R146) -/

section
variable {s : State} {n : Nat} (hrun : SteadyRun s n)
include hrun

theorem SteadyRun.key_le_succ {k : Nat} (hk : k < n) : (after k s).key ≤ (after (k + 1) s).key := by
  obtain ⟨hreset, hwrap⟩ := hrun k hk
  by_cases h : (after k s).Completes
  · exact (advance_raises_key hwrap h).le
  · exact (advance_of_not_completes hreset h).1.ge

theorem SteadyRun.key_le {j k : Nat} (hjk : j ≤ k) (hk : k ≤ n) : (after j s).key ≤ (after k s).key := by
  induction k, hjk using Nat.le_induction with
  | base => exact le_rfl
  | succ k _ ih => exact (ih (by omega)).trans (hrun.key_le_succ hk)

theorem SteadyRun.prevTimestamp_le {j k : Nat} (hjk : j ≤ k) (hk : k ≤ n) :
    (after j s).prevTimestamp.toNat ≤ (after k s).prevTimestamp.toNat :=
  State.prevTimestamp_le_of_key_le (hrun.key_le hjk hk)

/-- A valid response stands there only after a finished command, and that raised the key (R144). -/
theorem SteadyRun.key_lt {j k : Nat} (hjk : j < k) (hk : k ≤ n) (hresp : (after k s).response.isSome = true) :
    (after j s).key < (after k s).key := by
  obtain ⟨k, rfl⟩ := Nat.exists_eq_add_one_of_ne_zero (Nat.ne_zero_of_lt hjk)
  obtain ⟨hreset, hwrap⟩ := hrun k hk
  have hdone : (after k s).Completes := by
    by_contra h
    obtain ⟨-, hnone⟩ := advance_of_not_completes hreset h
    simp [after, hnone] at hresp
  calc (after j s).key
    _ ≤ (after k s).key := hrun.key_le (Nat.le_of_lt_succ hjk) (Nat.le_of_succ_le hk)
    _ < (after (k + 1) s).key := advance_raises_key hwrap hdone

end

/-- Settles O32: one command raises the key, and a run keeps the order between its finished commands. -/
theorem stateKeyGrowsWithEveryCommand : Obligations.StateKeyGrowsWithEveryCommand :=
  ⟨fun i _ hans hwrap => exec_raises_key hans hwrap i, fun _ _ _ _ hrun hjk hk hresp => hrun.key_lt hjk hk hresp⟩

/-- Settles O34: the key does not fall, so `prev_timestamp` does not, and each sample is reached by the command that
takes it. -/
theorem logicalClockIsNeverBehindTheSample : Obligations.LogicalClockIsNeverBehindTheSample := by
  refine ⟨fun i s now hans hclock hwrap => ?_, fun s n hrun => ⟨hrun.prevTimestamp_le n.zero_le le_rfl, ?_⟩⟩
  · obtain ⟨t, ht, hkey⟩ := exec_raises_key hans hwrap i
    exact ⟨t, ht, State.prevTimestamp_le_of_key_le hkey.le, exec_not_behind_sample hans hwrap hclock ht⟩
  · intro k now hk hdone hclock
    obtain ⟨-, hwrap⟩ := hrun k hk
    obtain ⟨i, hi⟩ := exec_of_commanded hdone.1
    calc now.toNat
      _ ≤ (after (k + 1) s).prevTimestamp.toNat :=
        exec_not_behind_sample hdone.2 (fun htop => hwrap ⟨hdone, htop⟩) hclock hi
      _ ≤ (after n s).prevTimestamp.toNat := hrun.prevTimestamp_le hk le_rfl

/-! ### The order of results (R145, R147, R148, R149) -/

/-- Between the timestamp and the counter a result key holds constants only, so below `2^48` it sorts as the registers
do (R145). -/
theorem resultKey_lt_iff {s t : State} (hs : s.prevTimestamp.toNat < 2 ^ 48) (ht : t.prevTimestamp.toNat < 2 ^ 48) :
    (resultKey s.prevTimestamp s.sequenceCounter).toNat < (resultKey t.prevTimestamp t.sequenceCounter).toNat ↔
      s.key < t.key := by
  have hsc := s.sequenceCounter.isLt
  have htc := t.sequenceCounter.isLt
  rw [resultKey_toNat, resultKey_toNat, Nat.mod_eq_of_lt hs, Nat.mod_eq_of_lt ht, State.key, State.key]
  omega

section
variable {a b : State} {ra rb : Response} (hma : a.ResponseMatches) (hmb : b.ResponseMatches)
  (hra : a.response = some ra) (hrb : b.response = some rb) (hb : b.prevTimestamp.toNat < 2 ^ 48)
include hma hmb hra hrb hb

theorem keyOf_lt_iff_of_matched (ha : a.prevTimestamp.toNat < 2 ^ 48) :
    (keyOf ra.uuid).toNat < (keyOf rb.uuid).toNat ↔ a.key < b.key := by
  obtain ⟨hka, -⟩ := hma ra hra
  obtain ⟨hkb, -⟩ := hmb rb hrb
  rw [hka, hkb, resultKey_lt_iff ha hb]

theorem keyOf_lt_of_key_lt (hkey : a.key < b.key) : (keyOf ra.uuid).toNat < (keyOf rb.uuid).toNat :=
  have ha : a.prevTimestamp.toNat < 2 ^ 48 := (State.prevTimestamp_le_of_key_le hkey.le).trans_lt hb
  (keyOf_lt_iff_of_matched hma hmb hra hrb hb ha).2 hkey

end

/-- Settles O33: a matched response carries the result key of the registers, and the state key is their lexicographic
order. -/
theorem resultKeysCompareAsTheRegisters : Obligations.ResultKeysCompareAsTheRegisters := by
  intro a b ra rb hma hmb hra hrb ha hb
  rw [keyOf_lt_iff_of_matched hma hmb hra hrb hb ha, State.key_lt_iff]

/-- The key is the upper 72 bits of a value, and these decide (R145). -/
theorem uuid_lt_of_keyOf_lt {u v : Uuid} (h : (keyOf u).toNat < (keyOf v).toNat) : u.toNat < v.toNat := by
  rw [keyOf_toNat, keyOf_toNat] at h
  exact Nat.lt_of_div_lt_div h

/-- A step does not read the response that the step before it left. -/
theorem step_without_response (s : State) : step { s with response := none } = step s := rfl

/-- So whatever stood on the ports, the response after a step is matched with the registers after it (R145). -/
theorem advance_responseMatches (s : State) : (advance s).ResponseMatches :=
  stepKeepsTheResponseMatched { s with response := none } (advance s) (State.responseMatches_of_no_response rfl)
    ((step_without_response s).trans (step_eq_advance s))

/-- The heart of R148: of two results of a run the later one has the greater key. -/
theorem SteadyRun.keyOf_lt {s : State} {n j k : Nat} {ra rb : Response} (hrun : SteadyRun s n)
    (hlast : (after n s).prevTimestamp.toNat < 2 ^ 48) (hmatched : (after j s).ResponseMatches) (hjk : j < k)
    (hk : k ≤ n) (hra : (after j s).response = some ra) (hrb : (after k s).response = some rb) :
    (keyOf ra.uuid).toNat < (keyOf rb.uuid).toNat := by
  have hkey : (after j s).key < (after k s).key := hrun.key_lt hjk hk (by rw [hrb]; rfl)
  have hts : (after k s).prevTimestamp.toNat < 2 ^ 48 := (hrun.prevTimestamp_le hk le_rfl).trans_lt hlast
  obtain ⟨k, rfl⟩ := Nat.exists_eq_add_one_of_ne_zero (Nat.ne_zero_of_lt hjk)
  exact keyOf_lt_of_key_lt hmatched (advance_responseMatches _) hra hrb hts hkey

/-- Settles O36: the later result has the greater key, and the key stands in the upper bits. -/
theorem resultsStrictlyIncrease : Obligations.ResultsStrictlyIncrease := fun _ _ _ _ hmatched hra hn hrun hrb hlast =>
  uuid_lt_of_keyOf_lt (hrun.keyOf_lt (j := 0) hlast hmatched hn le_rfl hra hrb)

/-- Settles O35: the upper 72 bits are the key, the upper 64 are a part of it, and the upper 80 contain it. -/
theorem resultPrefixesAreOrdered : Obligations.ResultPrefixesAreOrdered := by
  intro s n ra rb hmatched hra hn hrun hrb hlast
  have hkey := hrun.keyOf_lt (j := 0) hlast hmatched hn le_rfl hra hrb
  rw [keyOf_toNat, keyOf_toNat] at hkey
  omega

theorem mem_emittedBy {s : State} {n : Nat} {u : Uuid} (h : u ∈ emittedBy s n) :
    ∃ k < n, ∃ r, (after (k + 1) s).response = some r ∧ r.uuid = u := by
  induction n with
  | zero => simp [emittedBy] at h
  | succ n ih =>
    rw [emittedBy, List.mem_append] at h
    obtain h | h := h
    · obtain ⟨k, hk, hr⟩ := ih h
      exact ⟨k, hk.trans n.lt_succ_self, hr⟩
    · exact ⟨n, n.lt_succ_self, by simpa using h⟩

/-- The results of a run come in rising order (R148). -/
theorem SteadyRun.emittedBy_pairwise_lt {s : State} {n : Nat} (hrun : SteadyRun s n)
    (hlast : (after n s).prevTimestamp.toNat < 2 ^ 48) {m : Nat} (hm : m ≤ n) :
    (emittedBy s m).Pairwise fun u v => u.toNat < v.toNat := by
  induction m with
  | zero => exact .nil
  | succ m ih =>
    rw [emittedBy, List.pairwise_append]
    refine ⟨ih (Nat.le_of_succ_le hm), ?_, fun u hu v hv => ?_⟩
    · cases (after (m + 1) s).response <;> simp
    · obtain ⟨k, hk, ra, hra, rfl⟩ := mem_emittedBy hu
      obtain ⟨rb, hrb, rfl⟩ : ∃ rb, (after (m + 1) s).response = some rb ∧ rb.uuid = v := by simpa using hv
      have hmatched : (after (k + 1) s).ResponseMatches := advance_responseMatches _
      exact uuid_lt_of_keyOf_lt (hrun.keyOf_lt hlast hmatched (Nat.succ_lt_succ hk) hm hra hrb)

/-- Settles O37: values in strictly rising order do not repeat. -/
theorem resultsArePairwiseDistinct : Obligations.ResultsArePairwiseDistinct := fun _ _ hrun hlast =>
  (hrun.emittedBy_pairwise_lt hlast le_rfl).imp fun hlt heq => hlt.ne (congrArg BitVec.toNat heq)

/-! ### The order across a reset (R152) -/

/-- Of two matched responses, of any two states, the one with the later timestamp is the greater (R145, R152). -/
theorem uuid_lt_of_prevTimestamp_lt {a b : State} {ra rb : Response} (hma : a.ResponseMatches)
    (hmb : b.ResponseMatches) (hra : a.response = some ra) (hrb : b.response = some rb)
    (hlt : a.prevTimestamp.toNat < b.prevTimestamp.toNat) (hb : b.prevTimestamp.toNat < 2 ^ 48) :
    ra.uuid.toNat < rb.uuid.toNat :=
  uuid_lt_of_keyOf_lt (keyOf_lt_of_key_lt hma hmb hra hrb hb (State.key_lt_iff.2 (.inl hlt)))

/-- Settles O38: the fresh result carries its sample as the timestamp. -/
theorem laterSampleGivesGreaterValueAcrossReset : Obligations.LaterSampleGivesGreaterValueAcrossReset := by
  intro i s u ra now w0 w1 hmatched hra hcall hlt hnow
  have hmatched' := u.emitted_responseMatches now (seedOf w0) (freshTail w0 w1) i (.inr rfl)
  exact ⟨_, _, hcall.exec_eq i, rfl, uuid_lt_of_prevTimestamp_lt hmatched hmatched' hra rfl hlt hnow⟩

theorem State.StalledCall.answered {s : State} {now w0 : Word64} (h : s.StalledCall now w0) : s.answered = true := by
  obtain ⟨hclock, htake, hle⟩ := h
  obtain ⟨rest, hw⟩ := take_one_iff.1 htake
  simp [State.answered, hclock, wordsNeeded_of_stalled hle, hw]

/-- Settles O51: a stalled command that does not wrap leaves `prev_timestamp` at its sample or later, and a fresh one
leaves it at its sample. -/
theorem orderAcrossResetFollowsTheSample : Obligations.OrderAcrossResetFollowsTheSample := by
  constructor
  · intro i s u ra now w0 hmatched hra hcall hlt hwrap
    have hexec := hcall.exec_eq i
    have hmatched' := u.emitted_responseMatches u.stalledTimestamp (u.sequenceCounter + 1) (stalledTail w0) i (.inl rfl)
    refine ⟨_, _, hexec, rfl, fun hts => uuid_lt_of_prevTimestamp_lt hmatched hmatched' hra rfl ?_ hts⟩
    exact hlt.trans_le (exec_not_behind_sample hcall.answered hwrap hcall.1 hexec)
  · intro i s u ra now w0 w1 hmatched hra hcall hlt hs
    have hmatched' := u.emitted_responseMatches now (seedOf w0) (freshTail w0 w1) i (.inr rfl)
    exact ⟨_, _, hcall.exec_eq i, rfl, uuid_lt_of_prevTimestamp_lt hmatched' hmatched rfl hra hlt hs⟩

/-! ### Counting and drift (R99, R143, R151) -/

/-- A run of stalled commands counts on the pair of registers taken as one 82-bit number (R99). -/
theorem StalledRun.key_after {s : State} {n : Nat} (hrun : StalledRun s n) :
    (after n s).key = (s.key + n) % 2 ^ 82 := by
  induction n with
  | zero =>
    have hpt := s.prevTimestamp.isLt
    have hsc := s.sequenceCounter.isLt
    rw [after, State.key]
    omega
  | succ n ih =>
    obtain ⟨hcommanded, now, w0, hcall⟩ := hrun n n.lt_succ_self
    obtain ⟨i, hi⟩ := exec_of_commanded hcommanded
    obtain ⟨t, ht, hkey, -⟩ := stalledCommandAddsOneToTheKey i _ now w0 hcall
    obtain rfl := Host.Outcome.next.inj (hi.symm.trans ht)
    rw [after, hkey, ih fun k hk => hrun k (hk.trans n.lt_succ_self)]
    omega

/-- Settles O39: the low 18 bits of the counted key are the counter, and the others the logical clock. -/
theorem stalledRunCountsItsRollovers : Obligations.StalledRunCountsItsRollovers := by
  intro s n hrun
  have hkey := hrun.key_after
  have hsc := (after n s).sequenceCounter.isLt
  rw [State.key, State.key] at hkey
  omega

theorem seedOf_toNat_le (w0 : Word64) : (seedOf w0).toNat ≤ 0x1FFFF :=
  counter_toNat_le_of_guard_clear (seedOf_guard w0)

/-- The registers after the step of a fresh command (R96). -/
theorem State.FreshCall.advance_registers {s : State} {now w0 w1 : Word64} (h : s.FreshCall now w0 w1)
    (hcommanded : s.Commanded) : (advance s).prevTimestamp = now ∧ (advance s).sequenceCounter = seedOf w0 := by
  obtain ⟨i, hi⟩ := exec_of_commanded hcommanded
  rw [h.exec_eq i] at hi
  rw [← Host.Outcome.next.inj hi]
  exact ⟨rfl, rfl⟩

/-- The registers after a fresh command and `n` stalled ones (R143, R151). -/
theorem State.FreshCall.registers_after_stalled {s : State} {now w0 w1 : Word64} {n : Nat}
    (h : s.FreshCall now w0 w1) (hcommanded : s.Commanded) (hrun : StalledRun (advance s) n) :
    (after n (advance s)).sequenceCounter.toNat = ((seedOf w0).toNat + n) % 2 ^ 18 ∧
    (after n (advance s)).prevTimestamp.toNat = (now.toNat + ((seedOf w0).toNat + n) / 2 ^ 18) % 2 ^ 64 := by
  obtain ⟨hpt, hsc⟩ := h.advance_registers hcommanded
  rw [← hpt, ← hsc]
  exact stalledRunCountsItsRollovers _ _ hrun

/-- Settles O40: up to the headroom `seed + n` stays below `2^18`, and one past it is `2^18`. -/
theorem headroomAfterASeed : Obligations.HeadroomAfterASeed := by
  intro s now w0 w1 n hcommanded hcall hrun
  have hseed := seedOf_toNat_le w0
  have hnow := now.isLt
  obtain ⟨-, hsc⟩ := hcall.advance_registers hcommanded
  obtain ⟨hscn, hptn⟩ := hcall.registers_after_stalled hcommanded hrun
  refine ⟨hsc, by omega, fun hn => ⟨BitVec.eq_of_toNat_eq ?_, ?_⟩,
    fun hn => ⟨BitVec.eq_of_toNat_eq ?_, BitVec.eq_of_toNat_eq ?_⟩⟩
  · rw [hptn]
    omega
  · rw [hscn]
    omega
  · rw [hptn, BitVec.toNat_add, show (seedOf w0).toNat + n = 2 ^ 18 by omega]
    rfl
  · rw [hscn, show (seedOf w0).toNat + n = 2 ^ 18 by omega]
    rfl

/-- Settles O41: the logical clock is the fresh sample and the rollovers since, each stalled sample lies between the two,
and a seed is at most `0x1FFFF`. -/
theorem driftIsBoundedByTheRollovers : Obligations.DriftIsBoundedByTheRollovers := by
  intro s now w0 w1 n hcommanded hcall hrun hnowrap hsamples k x hk hclock
  have hseed := seedOf_toNat_le w0
  have hpt {m : Nat} (hm : m ≤ n) :
      (after m (advance s)).prevTimestamp.toNat = now.toNat + ((seedOf w0).toNat + m) / 2 ^ 18 := by
    obtain ⟨-, hptm⟩ := hcall.registers_after_stalled hcommanded fun j hj => hrun j (hj.trans_le hm)
    rw [hptm]
    omega
  have hlow := hsamples k x hk hclock
  obtain ⟨-, x', _, hclock', -, hhigh⟩ := hrun k hk
  obtain rfl := Option.some.inj (hclock'.symm.trans hclock)
  rw [hpt hk.le] at hhigh
  rw [hpt hk]
  omega

end Sys2Proof.Machine
end

section
/-! PROOF. Exceptions (`60_exceptions.md` section 1): a step always answers a next state, an answered command a response
with it (R160), and a command whose collaborator never answers stays where it is (R162). -/

namespace Sys2Proof.Machine

/-! ### A missing answer (R162) -/

section
variable {s : State} (hans : s.answered = false)
include hans

/-- Without all of its answers neither command ends: of the four things a command can do, only the wait is left. -/
theorem exec_of_unanswered (i : Instr) : exec i s = .next s.waitStep := by
  rw [exec_eq]
  obtain ⟨-, e⟩ | ⟨hyes, -⟩ | ⟨hyes, -⟩ | ⟨hyes, -⟩ := complete_cases s (textOf i)
  · rw [e]
  all_goals simp [hans] at hyes

theorem step_of_unanswered (hcommanded : s.Commanded) : step s = .next s.waitStep := by
  obtain ⟨op, hop⟩ := hcommanded
  rw [step_of_command hop, exec_of_unanswered hans]

/-- The wait is a fixed point: a step does not see the response that the first wait took away. -/
theorem after_of_unanswered (hcommanded : s.Commanded) (n : Nat) : after (n + 1) s = s.waitStep := by
  have hstep : step s = .next s.waitStep := step_of_unanswered hans hcommanded
  induction n with
  | zero => exact advance_eq hstep
  | succ n ih =>
    have hstep' : step s.waitStep = .next s.waitStep := (step_without_response s).trans hstep
    rw [after, ih, advance_eq hstep']

end

/-- Settles O31: the first step takes the response away, and from there on every step answers the state it finds. -/
theorem unansweredCommandNeverEnds : Obligations.UnansweredCommandNeverEnds := fun _ hcommanded hans =>
  ⟨exec_of_unanswered hans, after_of_unanswered hans hcommanded⟩

/-! ### Totality (R106, R160) -/

/-- Settles O7: no request of the front of the inputs stops the step, and an answered command returns in each of its
branches. -/
theorem everyStepAnswersNext : Obligations.EveryStepAnswersNext := by
  refine ⟨fun s => ⟨advance s, step_eq_advance s⟩, fun i s hans => ?_⟩
  obtain ⟨pt, sc, tail, draws, he⟩ := exec_emitted_of_answered hans i
  exact ⟨_, _, he, rfl⟩

end Sys2Proof.Machine
end

section
/-! PROOF. Reset and the first command after it (`70_reset_and_hazards.md` section 1): the reset step (R180), the
response at reset (R181) and the branch of the first command (R182). -/

namespace Sys2Proof.Machine

/-! ### The reset event (R180, R181) -/

theorem State.request_of_reset {s : State} {p : PortInputs} {rest : List PortInputs} (hin : s.inputs = p :: rest)
    (hrst : p.rst = true) : s.request = .reset := by
  simp only [State.request, hin, hrst, if_true]

theorem step_of_reset {s : State} (h : s.request = .reset) : step s = .next s.resetStep := by
  rw [step, h]

/-- Settles O1: whether a command is issued is not looked at where `rst` is 1, so the step is the reset step. -/
theorem resetWinsAndClearsRegisters : Obligations.ResetWinsAndClearsRegisters := by
  intro s p rest hin hrst
  rw [step_of_reset (State.request_of_reset hin hrst), State.resetStep, hin]
  rfl

/-- Settles O42: `State.reset` has no valid response, so nothing is claimed of one. -/
theorem resetHasItsResponseMatched : Obligations.ResetHasItsResponseMatched :=
  State.responseMatches_of_no_response rfl

/-! ### The first command after reset (R182) -/

section
variable {s : State} {now : Word64} (hans : s.answered = true) (hclock : s.clockSample = some now)
include hans hclock

/-- An answered command on a sample above `prev_timestamp` is fresh (R92). -/
theorem State.freshCall_of_answered (hlt : s.prevTimestamp.toNat < now.toNat) : ∃ w0 w1, s.FreshCall now w0 w1 := by
  obtain ⟨now', w0, w1, hcall⟩ | ⟨now', w0, hclock', -, hle⟩ := State.call_of_answered hans
  · obtain rfl := Option.some.inj (hclock.symm.trans hcall.1)
    exact ⟨w0, w1, hcall⟩
  · obtain rfl := Option.some.inj (hclock.symm.trans hclock')
    exact absurd hle (Nat.not_le.2 hlt)

/-- An answered command on a sample at or below `prev_timestamp` is stalled (R92). -/
theorem State.stalledCall_of_answered (hle : now.toNat ≤ s.prevTimestamp.toNat) : ∃ w0, s.StalledCall now w0 := by
  obtain ⟨now', w0, w1, hclock', -, hlt⟩ | ⟨now', w0, hcall⟩ := State.call_of_answered hans
  · obtain rfl := Option.some.inj (hclock.symm.trans hclock')
    exact absurd hlt (Nat.not_lt.2 hle)
  · obtain rfl := Option.some.inj (hclock.symm.trans hcall.1)
    exact ⟨w0, hcall⟩

end

/-- The first word a fresh command draws stands at the front of the answers (R52). -/
theorem State.FreshCall.rngAnswers_head? {s : State} {now w0 w1 : Word64} (h : s.FreshCall now w0 w1) :
    s.rngAnswers.head? = some w0 := by
  obtain ⟨-, htake, -⟩ := h
  obtain ⟨rest, hw⟩ := take_two_iff.1 htake
  rw [hw, List.head?_cons]

/-- Settles O30: `prev_timestamp` is 0, so a sample from 1 on is fresh and lays out itself with its seed, and a sample of 0
is stalled and counts from 0 to 1. -/
theorem firstCommandAfterReset : Obligations.FirstCommandAfterReset := by
  intro i s hpt hsc hans
  have hpt0 : s.prevTimestamp.toNat = 0 := congrArg BitVec.toNat hpt
  refine ⟨fun now hclock hnow => ?_, fun hclock => ?_⟩
  · obtain ⟨w0, w1, hcall⟩ := State.freshCall_of_answered hans hclock (by omega)
    refine ⟨_, _, w0, hcall.exec_eq i, rfl, rfl, ?_, hcall.rngAnswers_head?, ctrOf_layout _ _ _⟩
    rw [tsOf_layout, BitVec.toNat_setWidth]
  · obtain ⟨w0, hcall⟩ := State.stalledCall_of_answered hans hclock (Nat.zero_le _)
    have hbelow : s.sequenceCounter ≠ Config.ctrMax := by
      rw [hsc]
      decide
    refine ⟨_, _, hcall.exec_eq i, rfl, ?_, ?_⟩
    · rw [tsOf_layout, State.stalledTimestamp_of_no_rollover hbelow, hpt]
      rfl
    · rw [ctrOf_layout, hsc]
      rfl

end Sys2Proof.Machine
end
